-- ==== Sys2Proof/Config.lean ====
section
/-! DEFINITION. What an implementation fixes: the parameter `ARG_WIDTH` (00_scope.md section 3, R3). -/

namespace Sys2Proof

/-- The parameters of one block. `argWidth` is `ARG_WIDTH`, the width of the operand bus `arg` and of the counters
`ITER_CNT` and `BYTE_CNT`: "a parameter the model takes as an argument" (00_scope.md R3). The model takes it as plain
data, so that a statement about every state is a statement about every width. Log entry 1, DESIGN CHOICE, safe. -/
structure Config where
  argWidth : Nat
  deriving DecidableEq, Repr

/-- `ARG_WIDTH >= 8` (00_scope.md R3). -/
abbrev Config.valid (c : Config) : Prop := 8 ≤ c.argWidth

/-- The number of values an operand can have, `2^ARG_WIDTH` (00_scope.md R3). -/
def Config.argLimit (c : Config) : Nat := 2 ^ c.argWidth

/-- The width the spec recommends, 64 (00_scope.md section 3). Log entry 1, DESIGN CHOICE: only `State.reset` uses it. -/
def Config.recommended : Config := ⟨64⟩

end Sys2Proof
end

