-- ==== Sys2Proof/Word.lean ====
section
/-! DEFINITION. The words of the block: bytes, register words, the rule table and a command transaction. -/

namespace Sys2Proof

/-- An 8-bit value: a rule number, a command code or an emitted byte (00_scope.md section 4, Widths). -/
abbrev Byte := BitVec 8

/-- A 32-bit value: the register `STATE` or a read-data word (00_scope.md section 4, Widths). -/
abbrev Word := BitVec 32

/-- The rule table: 8 one-bit entries, indexed 0 to 7 (10_state.md R9). -/
abbrev RuleTable := Vector Bool 8

/-- One transaction on the command port: `cmd[7:0]` with the unsigned operand `arg` (30_encoding.md R34).
The bus is `ARG_WIDTH` bits wide; `Command.fits` (WellFormed.lean) says that `arg` is a value it can carry. -/
structure Command where
  cmd : Byte
  arg : Nat
  deriving DecidableEq, Repr

end Sys2Proof
end

