-- ==== Sys2Proof/Syntax.lean ====
section
/-! DEFINITION. The commands of CAK-CMD version 1: one constructor per row of spec/opcode_table.json. -/

namespace Sys2Proof

/-- The commands (30_encoding.md R35). A command without an operand carries none: its `arg` is ignored, any value, with
no effect (R36). The operand of the other three is the whole unsigned value of `arg` (R36), for `LDRULE` too, whose range
check is made when the command is performed (40_rule_decoder.md R43). -/
inductive Instr where
  /-- `0x00 NOP` (43_control.md R61) -/
  | nop
  /-- `0x01 LDRULE`, `arg` as it stands on the bus (40_rule_decoder.md R43) -/
  | ldrule (arg : Nat)
  /-- `0x02 INIT` (41_state_evolution.md R48) -/
  | init
  /-- `0x03 STEP` (41_state_evolution.md R49) -/
  | step
  /-- `0x04 EVOLVE n` (41_state_evolution.md R50) -/
  | evolve (n : Nat)
  /-- `0x05 EMIT` (42_keystream_serializer.md R55) -/
  | emit
  /-- `0x06 EMITN n` (42_keystream_serializer.md R56) -/
  | emitn (n : Nat)
  /-- `0x07 RDSTATE` (41_state_evolution.md R53) -/
  | rdstate
  /-- `0x08 RDRULE` (40_rule_decoder.md R44) -/
  | rdrule
  deriving DecidableEq, Repr

end Sys2Proof
end

