-- ==== Sys2Proof/WellFormed.lean ====
section
/-! DEFINITION. When a command can stand on the command port of a block: its operand is an `ARG_WIDTH`-bit number. -/

namespace Sys2Proof

/-- The operand is a value the `ARG_WIDTH`-bit bus can carry (00_scope.md R3: a count of `2^ARG_WIDTH` or more cannot be
given to the block in one command). -/
def Command.fits (cfg : Config) (c : Command) : Bool := decide (c.arg < cfg.argLimit)

/-- A command whose operand, if it has one, is an `ARG_WIDTH`-bit number (30_encoding.md R36). -/
def Instr.wf (cfg : Config) : Instr → Bool
  | .nop => true
  | .ldrule arg => decide (arg < cfg.argLimit)
  | .init => true
  | .step => true
  | .evolve n => decide (n < cfg.argLimit)
  | .emit => true
  | .emitn n => decide (n < cfg.argLimit)
  | .rdstate => true
  | .rdrule => true

end Sys2Proof
end

