-- ==== Sys2Proof/Decode.lean ====
section
/-! DEFINITION. The command decoder and encoder (30_encoding.md R34 to R38), and a transaction as one number. -/

namespace Sys2Proof

/-- Why a command code has no meaning: it is one of `0x09` to `0xFF` (30_encoding.md R37). -/
inductive DecodeError where
  /-- the code matches no row of the table -/
  | illegal (cmd : Byte)
  deriving DecidableEq, Repr

/-- `decode(cmd)`, total: the mnemonic for `0x00` to `0x08`, `ILLEGAL` for every other code (30_encoding.md R35), with the
operand assembled as R36 says. All 8 bits of `cmd` are decoded (R34). -/
def decode (c : Command) : Except DecodeError Instr :=
  match c.cmd.toNat with
  | 0x00 => .ok .nop
  | 0x01 => .ok (.ldrule c.arg)
  | 0x02 => .ok .init
  | 0x03 => .ok .step
  | 0x04 => .ok (.evolve c.arg)
  | 0x05 => .ok .emit
  | 0x06 => .ok (.emitn c.arg)
  | 0x07 => .ok .rdstate
  | 0x08 => .ok .rdrule
  | _ => .error (.illegal c.cmd)

/-- The command code of each mnemonic (30_encoding.md R35). -/
def Instr.code : Instr → Byte
  | .nop => 0x00#8
  | .ldrule _ => 0x01#8
  | .init => 0x02#8
  | .step => 0x03#8
  | .evolve _ => 0x04#8
  | .emit => 0x05#8
  | .emitn _ => 0x06#8
  | .rdstate => 0x07#8
  | .rdrule => 0x08#8

/-- The value an assembler puts on `arg`: the operand, or 0 for the commands without one (30_encoding.md R39). -/
def Instr.operand : Instr → Nat
  | .nop => 0
  | .ldrule arg => arg
  | .init => 0
  | .step => 0
  | .evolve n => n
  | .emit => 0
  | .emitn n => n
  | .rdstate => 0
  | .rdrule => 0

/-- The transaction a command is (30_encoding.md R34, R39). -/
def encode (i : Instr) : Command := ⟨i.code, i.operand⟩

/-- A transaction as one number: `cmd` in bits 7 to 0, as spec/opcode_table.json numbers them, and `arg` in the bits
above. The spec transfers the two side by side (R34) and gives them no common numbering: log entry 11, DESIGN CHOICE. -/
def Command.toNumber (c : Command) : Nat := c.cmd.toNat + 2 ^ 8 * c.arg

/-- The transaction in the low `nbits` bits of `w`, numbered as in `Command.toNumber`; every bit above them is 0. -/
def Command.ofNumber (nbits w : Nat) : Command :=
  let v := w % 2 ^ nbits
  ⟨BitVec.ofNat 8 v, v / 2 ^ 8⟩

/-- The command the decoder reads from a transaction whose bits are `w`; none where the decoder refuses. -/
def decodeTableWord (nbits w : Nat) : Option Instr :=
  match decode (Command.ofNumber nbits w) with
  | .ok i => some i
  | .error _ => none

end Sys2Proof
end

