-- ==== Sys2Proof/Machine/Bits.lean ====
section
/-! DEFINITION. The bit operations the rules use (00_scope.md section 4). -/

namespace Sys2Proof.Machine

/-- `rotr8(x, i)`: 8-bit rotation right, wrapping (00_scope.md R5). -/
def rotr8 (x : Byte) (i : Nat) : Byte := x.rotateRight i

/-- `rotl32(x, i)`: 32-bit rotation left (00_scope.md R6). -/
def rotl32 (x : Word) (i : Nat) : Word := x.rotateLeft i

/-- `rotr32(x, i)`: 32-bit rotation right (00_scope.md R6). -/
def rotr32 (x : Word) (i : Nat) : Word := x.rotateRight i

/-- `x[8*k+7 : 8*k]`: byte lane `k` of a register value (10_state.md R13). -/
def byteOf (x : Word) (k : Nat) : Byte := x.extractLsb' (8 * k) 8

end Sys2Proof.Machine
end

