-- ==== Sys2Proof/Machine/State.lean ====
section
/-! DEFINITION. The block's state (10_state.md section 2), the host's side of a run, the outcomes of a step, and reset. -/

namespace Sys2Proof.Machine

/-- The fault codes `CAUSE` records (60_exceptions.md R64). The four names are the four values of the 2-bit register
(log entry 9). -/
inductive Cause where
  /-- 0 `NONE`: no fault since reset -/
  | none
  /-- 1 `ILLEGAL_CMD`: an accepted command with `cmd` in `0x09` to `0xFF` -/
  | illegalCmd
  /-- 2 `ARG_RANGE`: `LDRULE` with `arg[ARG_WIDTH-1:8] != 0` -/
  | argRange
  /-- 3 `NO_RULE`: `STEP` or `EVOLVE` with `RULE_VALID = 0` -/
  | noRule
  deriving DecidableEq, Repr

/-- What the host does at the command port (10_state.md R18, R22). Log entry 2, DESIGN CHOICE. -/
inductive HostEvent where
  /-- it offers a command (`cmd_valid = 1`) and holds it until it is accepted, for as many steps as that takes -/
  | offer (c : Command)
  /-- it offers nothing in one step -/
  | idle
  deriving DecidableEq, Repr

/-- One block, what has been observed of it, and what its host will do. Plain data. -/
structure State where
  /-- the parameter `ARG_WIDTH` of this block (00_scope.md R3); no step changes it. The model's own field, log entry 1. -/
  cfg : Config
  /-- `RULE` (R8) -/
  rule : Byte
  /-- `RULE_VALID` (R8) -/
  ruleValid : Bool
  /-- `TABLE[0..7]` (R9), log entry 7 -/
  table : RuleTable
  /-- `STATE`, bit `c` is cell `c` of the ring (R10) -/
  state : Word
  /-- `ITER_CNT`, the evolution steps still to perform (R11), log entry 8 -/
  iterCnt : Nat
  /-- `BYTE_CNT`, the bytes still to emit (R12), log entry 8 -/
  byteCnt : Nat
  /-- `BYTE_IDX`, the byte lane emitted next (R13) -/
  byteIdx : BitVec 2
  /-- `ERR`, sticky (R15) -/
  err : Bool
  /-- `CAUSE`, the first fault since reset (R15) -/
  cause : Cause
  /-- `OUT`, every byte emitted so far, oldest first (R16), log entry 6 -/
  out : List Byte
  /-- `RD`, every read word given so far, oldest first (R16), log entry 6 -/
  rd : List Word
  /-- what the host does at the command port from now on, next first (R22, R23). The model's own field, log entry 2. -/
  host : List HostEvent
  /-- the level the host gives `rst` in the coming steps, this step's first; after its end `rst` stays 0. It goes on step by
  step whatever is offered or in progress, so reset comes at any moment (R18, R22). The model's own field, log entry 2. -/
  rstIn : List Bool
  deriving DecidableEq, Repr

/-- The block right after reset (70_reset_and_hazards.md R76) at the start of a run (10_state.md R16, R23): histories
empty, a host that offers nothing and asserts no further reset (log entry 3), the recommended `ARG_WIDTH` (log entry 1). -/
def State.reset : State where
  cfg := Config.recommended
  rule := 0x00#8
  ruleValid := false
  table := #v[false, false, false, false, false, false, false, false]
  state := 0x00000001#32
  iterCnt := 0
  byteCnt := 0
  byteIdx := 0#2
  err := false
  cause := .none
  out := []
  rd := []
  host := []
  rstIn := []

/-- Why the machine stops with a fault: nothing does. The block's faults (60_exceptions.md R64) are next states in which
`ERR` and `CAUSE` are set (R66), the datapath and the engine raise none (R63), and a faulted block still answers (R67).
So this closed type has no constructor and no step raises one: neither safe nor unsafe, there is nothing to leave out.
Log entry 19. -/
inductive Fault where
  deriving DecidableEq, Repr

/-- Why the model gives a step no meaning. -/
inductive Refusal where
  /-- Raised by an arm of `exec` for a command that has no meaning yet. Safe: the model stops where the hardware goes on.
  No arm of this model raises it. -/
  | notModelled (mnemonic : String)
  /-- Raised by `acceptOffer` (Machine/Sequencer.lean) when the host's script offers an operand of `2^ARG_WIDTH` or more:
  counts at or above `2^ARG_WIDTH` "cannot be issued" (93_implementation_defined.md section 2, treatment `refuse`), the bus
  has no wires for them. Safe: no block ever sees such a command. Log entry 5. -/
  | operandWiderThanBus
  deriving DecidableEq, Repr

/-- The three outcomes of a step of this machine. -/
abbrev Result := Host.Outcome State Fault Refusal

end Sys2Proof.Machine
end

