-- ==== Sys2Proof/Machine/Flags.lean ====
section
/-! DEFINITION. What is computed from the state and not stored: `BUSY`, `cmd_ready`, the status port, and `rst`. -/

namespace Sys2Proof.Machine

/-- The 2-bit code `CAUSE` holds (10_state.md R17, 60_exceptions.md R64). -/
def Cause.code : Cause → BitVec 2
  | .none => 0#2
  | .illegalCmd => 1#2
  | .argRange => 2#2
  | .noRule => 3#2

/-- `BUSY = (ITER_CNT != 0) or (BYTE_CNT != 0)` (10_state.md R14). -/
def State.busy (s : State) : Bool := s.iterCnt != 0 || s.byteCnt != 0

/-- `cmd_ready = not BUSY` (10_state.md R19). -/
def State.cmdReady (s : State) : Bool := !s.busy

/-- A flag as one bit. -/
def flagBit (b : Bool) : BitVec 1 := BitVec.ofBool b

/-- `status[7:0]` (10_state.md R17): bit 7 reserved and 0, `BYTE_IDX` in 6:5, `RULE_VALID` in 4, `CAUSE` in 3:2, `ERR` in 1,
`BUSY` in 0. Reading it is evaluating this function: it has no side effect and there is no write path. -/
def State.status (s : State) : Byte :=
  flagBit false ++ s.byteIdx ++ flagBit s.ruleValid ++ s.cause.code ++ flagBit s.err ++ flagBit s.busy

/-- `rst`: the host asserts reset in this step (10_state.md R22). -/
def State.rst (s : State) : Bool := s.rstIn.headD false

end Sys2Proof.Machine
end

