-- ==== Sys2Proof/Machine/Operands.lean ====
section
/-! DEFINITION. Operand assembly (30_encoding.md R36). -/

namespace Sys2Proof.Machine

/-- The rule number `r = arg[7:0]` of `LDRULE`; none when `arg[ARG_WIDTH-1:8]` is not 0 (30_encoding.md R36). -/
def ruleOperand (arg : Nat) : Option Byte :=
  if arg / 2 ^ 8 = 0 then some (BitVec.ofNat 8 arg) else none

/-- The count `n = arg` of `EVOLVE` and `EMITN`: unsigned, any value including 0, neither extended, scaled nor shifted
(30_encoding.md R36). -/
def countOperand (arg : Nat) : Nat := arg

end Sys2Proof.Machine
end

