-- ==== Sys2Proof/Machine/Ops.lean ====
section
/-! DEFINITION. The named operations every rule is written with: register writes, `emit`, `respond`, fault entry, reset. -/

namespace Sys2Proof.Machine

/-- `RULE <- r`, `TABLE <- t`, `RULE_VALID <- 1` (40_rule_decoder.md R43). -/
def State.writeRule (s : State) (r : Byte) (t : RuleTable) : State :=
  { s with rule := r, table := t, ruleValid := true }

/-- `STATE <- v` (10_state.md R10). -/
def State.writeReg (s : State) (v : Word) : State := { s with state := v }

/-- `ITER_CNT <- n` (10_state.md R11). -/
def State.writeIterCnt (s : State) (n : Nat) : State := { s with iterCnt := n }

/-- `BYTE_CNT <- n` (10_state.md R12). -/
def State.writeByteCnt (s : State) (n : Nat) : State := { s with byteCnt := n }

/-- `BYTE_IDX <- 0` (10_state.md R13). -/
def State.restartLane (s : State) : State := { s with byteIdx := 0#2 }

/-- The byte of the group the serializer emits next: `STATE[8*k+7 : 8*k]` with `k = BYTE_IDX` (10_state.md R13). -/
def State.laneByte (s : State) : Byte := byteOf s.state s.byteIdx.toNat

/-- `emit(STATE[8*k+7 : 8*k])` and `BYTE_IDX <- (k + 1) mod 4` with `k = BYTE_IDX` (42_keystream_serializer.md R55, R57):
the byte goes to the output port and is appended to `OUT` (10_state.md R16). -/
def State.emitLane (s : State) : State :=
  { s with out := s.out ++ [s.laneByte], byteIdx := s.byteIdx + 1#2 }

/-- `respond(w)`: the word goes to the read-data port and is appended to `RD` (10_state.md R16). -/
def State.respond (s : State) (w : Word) : State := { s with rd := s.rd ++ [w] }

/-- `raise Fault(k)`, the block's fault entry: `ERR <- 1`, `CAUSE <- k` and nothing else (60_exceptions.md R66). There is no
vector, no saved register, no mode change, and no return from it but reset (R66, R68). -/
def State.raise (s : State) (k : Cause) : State := { s with err := true, cause := k }

/-- What the host does at the command port after a step in which nothing was accepted: an idle step is over, an offered
command is held (10_state.md R19, R22). -/
def afterIdle : List HostEvent → List HostEvent
  | .idle :: rest => rest
  | held => held

/-- The host's side after a step that accepts the command offered: the offer is gone, the level of `rst` goes on. -/
def State.consume (s : State) : State := { s with host := s.host.tail, rstIn := s.rstIn.tail }

/-- The host's side after a step that accepts nothing: an offer is held, an idle step is over, the level of `rst` goes on. -/
def State.elapse (s : State) : State := { s with host := afterIdle s.host, rstIn := s.rstIn.tail }

/-- The reset event (70_reset_and_hazards.md R76): every state element at its reset value, whatever was in progress. The
histories are not cleared, the parameter and what the host still does stay. This is the only way back from a fault
(60_exceptions.md R68). -/
def State.resetEvent (s : State) : State :=
  { State.reset with cfg := s.cfg, out := s.out, rd := s.rd, host := s.host, rstIn := s.rstIn }

/-- Check (1) of 60_exceptions.md R65: while `ERR = 1` a command other than `NOP`, `RDSTATE` and `RDRULE` is discarded with
no effect (R67); otherwise it is performed. -/
def unlessErr (s : State) (performed : Result) : Result :=
  if s.err then .next s else performed

/-- `s` with a transaction, given as the low `nbits` bits of `w` (`Command.ofNumber`), put before the block as the host's
next offer, with no engine work left and `rst` 0 in the next step, so that it is accepted in that very step; from then on
`rst` is what it would have been. The operand keeps the bits the bus has. Log entry 3, DESIGN CHOICE. -/
def State.present (s : State) (nbits w : Nat) : State :=
  let c := Command.ofNumber nbits w
  { s with iterCnt := 0, byteCnt := 0,
           host := .offer ⟨c.cmd, c.arg % s.cfg.argLimit⟩ :: s.host, rstIn := false :: s.rstIn }

end Sys2Proof.Machine
end

