-- ==== Sys2Proof/Machine/Control.lean ====
section
/-! DEFINITION. Control: `NOP` (43_control.md) and an accepted code that is no command (30_encoding.md R37). -/

namespace Sys2Proof.Machine

/-- `NOP` does nothing, also while `ERR = 1` (43_control.md R61). -/
def execNop (s : State) : Result := .next s

/-- An accepted command whose code is `0x09` to `0xFF`: fault `ILLEGAL_CMD`, no other effect (30_encoding.md R37); discarded
while `ERR = 1` (60_exceptions.md R67). No row of the table, so the sequencer calls it. -/
def acceptIllegal (s : State) : Result := unlessErr s (.next (s.raise .illegalCmd))

end Sys2Proof.Machine
end

