-- ==== Sys2Proof/Machine/Evolution.lean ====
section
/-! DEFINITION. The evolution engine: the transition function, `INIT`, `STEP`, `EVOLVE`, `RDSTATE` and the engine's evolution
step (41_state_evolution.md). -/

namespace Sys2Proof.Machine

/-- Step 2 for one column: `table[rotr32(t, c)[2:0]]` of the left-rotated register `t` (41_state_evolution.md R45). -/
def column (table : RuleTable) (t : Word) (c : Nat) : Bool :=
  let idx := (rotr32 t c).extractLsb' 0 3
  table[idx.toNat]'idx.isLt

/-- Step 3: bit `c` set to the result of column `c` for every `c` below the count, all other bits 0
(41_state_evolution.md R45). -/
def combineColumns (f : Nat → Bool) : Nat → Word
  | 0 => 0#32
  | c + 1 => combineColumns f c ||| (if f c then 1#32 <<< c else 0#32)

/-- `next(table, s)`, the source's three steps (41_state_evolution.md R45). -/
def next (table : RuleTable) (s : Word) : Word :=
  combineColumns (column table (rotl32 s 1)) 32

/-- `next^n(table, s)` (41_state_evolution.md R52). -/
def nextIter (table : RuleTable) : Nat → Word → Word
  | 0, s => s
  | k + 1, s => next table (nextIter table k s)

/-- `INIT` (41_state_evolution.md R48). -/
def execInit (s : State) : Result :=
  unlessErr s (.next (s.writeReg 0x00000001#32).restartLane)

/-- `STEP` (41_state_evolution.md R49). -/
def execStep (s : State) : Result :=
  unlessErr s <|
    if s.ruleValid then .next (s.writeReg (next s.table s.state)).restartLane
    else .next (s.raise .noRule)

/-- `EVOLVE n` at acceptance (41_state_evolution.md R50); the engine does the `n` steps. -/
def execEvolve (n : Nat) (s : State) : Result :=
  unlessErr s <|
    if s.ruleValid then .next (s.writeIterCnt (countOperand n)).restartLane
    else .next (s.raise .noRule)

/-- `RDSTATE` gives the register, also while `ERR = 1` (41_state_evolution.md R53). -/
def execRdstate (s : State) : Result := .next (s.respond s.state)

/-- The engine's evolution step, taken when `ITER_CNT != 0` (41_state_evolution.md R51). -/
def State.evolutionStep (s : State) : State :=
  (s.writeReg (next s.table s.state)).writeIterCnt (s.iterCnt - 1)

end Sys2Proof.Machine
end

