-- ==== Sys2Proof/Machine/RuleDecoder.lean ====
section
/-! DEFINITION. The rule decoder: `build_rule`, `LDRULE`, `RDRULE` (40_rule_decoder.md). -/

namespace Sys2Proof.Machine

/-- One entry of the table: `rotr8(r, i) & 1` (40_rule_decoder.md R41). -/
def ruleEntry (r : Byte) (i : Nat) : Bool := rotr8 r i &&& 1#8 == 1#8

/-- `build_rule(r)`, for `i` in 0 to 7 (40_rule_decoder.md R41). -/
def buildRule (r : Byte) : RuleTable :=
  #v[ruleEntry r 0, ruleEntry r 1, ruleEntry r 2, ruleEntry r 3,
     ruleEntry r 4, ruleEntry r 5, ruleEntry r 6, ruleEntry r 7]

/-- `LDRULE` (40_rule_decoder.md R43): loads the rule number and its table, or raises `ARG_RANGE`. -/
def execLdrule (arg : Nat) (s : State) : Result :=
  unlessErr s <|
    match ruleOperand arg with
    | none => .next (s.raise .argRange)
    | some r => .next (s.writeRule r (buildRule r))

/-- `zext_32({RULE_VALID, RULE})` (40_rule_decoder.md R44). -/
def State.ruleWord (s : State) : Word := (flagBit s.ruleValid ++ s.rule).setWidth 32

/-- `RDRULE` gives the rule register and its valid bit, also while `ERR = 1` (40_rule_decoder.md R44). -/
def execRdrule (s : State) : Result := .next (s.respond s.ruleWord)

end Sys2Proof.Machine
end

