-- ==== Sys2Proof/Machine/Serializer.lean ====
section
/-! DEFINITION. The keystream serializer: `group`, `keystream`, `EMIT`, `EMITN` and the engine's emission step
(42_keystream_serializer.md, 20_memory.md R27). -/

namespace Sys2Proof.Machine

/-- `group(s)`: the four bytes, least significant first (20_memory.md R27). -/
def group (s : Word) : List Byte := [byteOf s 0, byteOf s 1, byteOf s 2, byteOf s 3]

/-- `keystream(n, s)`: the group repeated until the length is at least `n`, then truncated to `n`
(42_keystream_serializer.md R54). -/
def keystream (n : Nat) (s : Word) : List Byte :=
  (List.replicate ((n + 3) / 4) (group s)).flatten.take n

/-- `EMIT` (42_keystream_serializer.md R55). -/
def execEmit (s : State) : Result := unlessErr s (.next s.emitLane)

/-- `EMITN n` at acceptance (42_keystream_serializer.md R56); the engine does the `n` emissions. -/
def execEmitn (n : Nat) (s : State) : Result :=
  unlessErr s (.next (s.writeByteCnt (countOperand n)))

/-- The engine's emission step, taken when `ITER_CNT = 0` and `BYTE_CNT != 0` (42_keystream_serializer.md R57). -/
def State.emissionStep (s : State) : State := s.emitLane.writeByteCnt (s.byteCnt - 1)

end Sys2Proof.Machine
end

