-- ==== Sys2Proof/Machine/Dispatch.lean ====
section
/-! DEFINITION. exec: what an accepted command does, in its one step (10_state.md R19). BUSY is the sequencer's matter
(log entry 14). -/

namespace Sys2Proof.Machine

/-- The command is performed in its acceptance step (10_state.md R19). -/
def exec (i : Instr) (s : State) : Host.Outcome State Fault Refusal :=
  match i with
  | .nop => Sys2Proof.Machine.execNop s
  | .ldrule arg => Sys2Proof.Machine.execLdrule arg s
  | .init => Sys2Proof.Machine.execInit s
  | .step => Sys2Proof.Machine.execStep s
  | .evolve n => Sys2Proof.Machine.execEvolve n s
  | .emit => Sys2Proof.Machine.execEmit s
  | .emitn n => Sys2Proof.Machine.execEmitn n s
  | .rdstate => Sys2Proof.Machine.execRdstate s
  | .rdrule => Sys2Proof.Machine.execRdrule s

end Sys2Proof.Machine
end

