-- ==== Sys2Proof/Machine/Sequencer.lean ====
section
/-! DEFINITION. Who has the next step: reset, the engine, or the host (10_state.md R18 to R20). -/

namespace Sys2Proof.Machine

/-- The engine's step, enabled when `BUSY = 1`: evolution if `ITER_CNT != 0`, otherwise emission (10_state.md R20). -/
def State.engineStep (s : State) : State :=
  if s.iterCnt ≠ 0 then s.evolutionStep else s.emissionStep

/-- The block accepts an offered command, `s` being the state without the offer: it decodes it and performs it in this one
step (10_state.md R19). An operand the bus cannot carry is no transaction: log entry 5. -/
def acceptOffer (c : Command) (s : State) : Result :=
  if c.fits s.cfg then
    match decode c with
    | .ok i => exec i s
    | .error _ => acceptIllegal s
  else .refused .operandWiderThanBus

/-- The step of the whole system. Reset dominates, whatever is in progress or offered (70_reset_and_hazards.md R76).
Otherwise, while `BUSY = 1` the engine has the step; an offered command is held in both (10_state.md R19, R20). Otherwise an
offered command is accepted. With nothing offered the block is idle and keeps all its state (60_exceptions.md R75, log
entry 12). -/
def advance (s : State) : Result :=
  if s.rst then .next s.elapse.resetEvent
  else if s.busy then .next s.elapse.engineStep
  else
    match s.host with
    | .offer c :: _ => acceptOffer c s.consume
    | .idle :: _ => .next s.elapse
    | [] => .next s.elapse

end Sys2Proof.Machine
end

