-- ==== Sys2Proof/Machine/Step.lean ====
section
/-! DEFINITION. One step of the machine, and a state whose next step runs a given transaction. -/

namespace Sys2Proof.Machine

/-- One atomic step: reset, an engine step, the acceptance of a command, or idling (10_state.md R18). -/
def step (s : State) : Host.Outcome State Fault Refusal := advance s

/-- `s` with the transaction whose bits are the low `nbits` of `w` as the host's next offer, accepted in the next step
(log entry 3: commands come from outside the block, which stores none). -/
def State.withFetchWord (s : State) (nbits w : Nat) : State := s.present nbits w

end Sys2Proof.Machine
end

