-- ==== Sys2Proof/Machine/HostSide.lean ====
section
/-! DEFINITION. Functions of the source and of the host that rules of the spec name: `evolve`, `generate`, `combine`, and a
host that offers a list of commands. None is hardware of the block. -/

namespace Sys2Proof.Machine

/-- `evolve(r, i) = next^i(build_rule(r), 0x00000001)` (41_state_evolution.md R52). -/
def evolve (r : Byte) (i : Nat) : Word := nextIter (buildRule r) i 0x00000001#32

/-- `generate(n, r, i)`, the source's function (42_keystream_serializer.md R59). -/
def generate (n : Nat) (r : Byte) (i : Nat) : List Byte := keystream n (evolve r i)

/-- `combine(data, ks)`, the host's exclusive-or, cut to the shorter of the two (43_control.md R62). Not hardware of the
block (00_scope.md section 2). -/
def combine : List Byte → List Byte → List Byte
  | d :: data, k :: ks => (d ^^^ k) :: combine data ks
  | _, _ => []

/-- A host that offers these commands in order, each as an assembler writes it (10_state.md R23, 30_encoding.md R39). -/
def script (commands : List Instr) : List HostEvent := commands.map fun i => .offer (encode i)

/-- `GENERATE n, r, i` (30_encoding.md R40). -/
def expandGenerate (n r i : Nat) : List Instr := [.ldrule r, .init, .evolve i, .emitn n]

/-- `SETUP r, i` (30_encoding.md R40). -/
def expandSetup (r i : Nat) : List Instr := [.ldrule r, .init, .evolve i]

end Sys2Proof.Machine
end

