-- ==== Sys2Proof/Machine/Assembler.lean ====
section
/-! DEFINITION. The assembler (30_encoding.md R39, R40): from a line of text to the commands it stands for. Not hardware of
the block. Conventions the spec leaves open: log entry 18. -/

namespace Sys2Proof.Machine

/-- The mnemonics of 30_encoding.md R35 and the two pseudo-instructions of R40. -/
inductive Mnemonic where
  | nop | ldrule | init | step | evolve | emit | emitn | rdstate | rdrule
  | generate | setup
  deriving DecidableEq, Repr

/-- Why the assembler refuses a line (30_encoding.md R39). -/
inductive AsmError where
  /-- the mnemonic is not in the table -/
  | unknownMnemonic
  /-- an operand that is required is missing -/
  | operandMissing
  /-- an operand stands where none is allowed -/
  | operandForbidden
  /-- an operand is not an unsigned decimal or `0x` hexadecimal integer, or the operands are not separated by commas -/
  | operandSyntax
  /-- the operand does not fit -/
  | operandRange
  deriving DecidableEq, Repr

/-- The spelling of each mnemonic, upper case (30_encoding.md R35, R40). -/
def mnemonicTable : List (List Char × Mnemonic) :=
  [(['N', 'O', 'P'], .nop), (['L', 'D', 'R', 'U', 'L', 'E'], .ldrule), (['I', 'N', 'I', 'T'], .init),
   (['S', 'T', 'E', 'P'], .step), (['E', 'V', 'O', 'L', 'V', 'E'], .evolve), (['E', 'M', 'I', 'T'], .emit),
   (['E', 'M', 'I', 'T', 'N'], .emitn), (['R', 'D', 'S', 'T', 'A', 'T', 'E'], .rdstate),
   (['R', 'D', 'R', 'U', 'L', 'E'], .rdrule), (['G', 'E', 'N', 'E', 'R', 'A', 'T', 'E'], .generate),
   (['S', 'E', 'T', 'U', 'P'], .setup)]

/-- The mnemonic a word spells. -/
def findMnemonic (w : List Char) : Option Mnemonic := mnemonicTable.lookup w

/-- How many operands a line of this mnemonic has (30_encoding.md R39, R40). -/
def Mnemonic.operands : Mnemonic → Nat
  | .nop => 0
  | .ldrule => 1
  | .init => 0
  | .step => 0
  | .evolve => 1
  | .emit => 0
  | .emitn => 1
  | .rdstate => 0
  | .rdrule => 0
  | .generate => 3
  | .setup => 2

/-- The limits of 30_encoding.md R39: `LDRULE` at most 255, `EVOLVE` and `EMITN` below `2^ARG_WIDTH`. -/
def asmFits (cfg : Config) : Instr → Bool
  | .nop => true
  | .ldrule r => decide (r ≤ 255)
  | .init => true
  | .step => true
  | .evolve n => decide (n < cfg.argLimit)
  | .emit => true
  | .emitn n => decide (n < cfg.argLimit)
  | .rdstate => true
  | .rdrule => true

/-- The commands of a line whose mnemonic and operands have been read; none when the operand count is wrong. -/
def expandLine : Mnemonic → List Nat → Option (List Instr)
  | .nop, [] => some [.nop]
  | .ldrule, [r] => some [.ldrule r]
  | .init, [] => some [.init]
  | .step, [] => some [.step]
  | .evolve, [n] => some [.evolve n]
  | .emit, [] => some [.emit]
  | .emitn, [n] => some [.emitn n]
  | .rdstate, [] => some [.rdstate]
  | .rdrule, [] => some [.rdrule]
  | .generate, [n, r, i] => some (expandGenerate n r i)
  | .setup, [r, i] => some (expandSetup r i)
  | _, _ => none

/-- A line whose mnemonic and operands have been read, as transactions (30_encoding.md R39, R40). -/
def assembleParsed (cfg : Config) (m : Mnemonic) (operands : List Nat) : Except AsmError (List Command) :=
  match expandLine m operands with
  | none => if operands.length < m.operands then .error .operandMissing else .error .operandForbidden
  | some is => if is.all (asmFits cfg) then .ok (is.map encode) else .error .operandRange

/-- The value of a digit, decimal and hexadecimal. -/
def digitValue (ch : Char) : Option Nat :=
  let v := ch.toNat
  if 48 ≤ v ∧ v ≤ 57 then some (v - 48)
  else if 65 ≤ v ∧ v ≤ 70 then some (v - 55)
  else if 97 ≤ v ∧ v ≤ 102 then some (v - 87)
  else none

/-- The value of a row of digits in a base, after the value read so far. -/
def readDigits (base : Nat) : Nat → List Char → Option Nat
  | acc, [] => some acc
  | acc, ch :: rest =>
    match digitValue ch with
    | none => none
    | some d => if d < base then readDigits base (base * acc + d) rest else none

/-- An unsigned integer in decimal, or in hexadecimal with a `0x` prefix (30_encoding.md R39). -/
def readNumber : List Char → Option Nat
  | [] => none
  | '0' :: 'x' :: ch :: rest => readDigits 16 0 (ch :: rest)
  | text => readDigits 10 0 text

/-- The line without its comment: `;` starts a comment to the end of the line (30_encoding.md R39). -/
def stripComment (line : List Char) : List Char := line.takeWhile (· != ';')

/-- White space between words. -/
def isBlank (ch : Char) : Bool := ch == ' ' || ch == '\t' || ch == '\r'

/-- The words of a line, the word being read coming first: separated by white space, a comma being a word of its own. -/
def splitWords : List Char → List Char → List (List Char)
  | word, [] => if word.isEmpty then [] else [word]
  | word, ch :: rest =>
    if isBlank ch then (if word.isEmpty then splitWords [] rest else word :: splitWords [] rest)
    else if ch == ',' then
      (if word.isEmpty then [','] :: splitWords [] rest else word :: [','] :: splitWords [] rest)
    else splitWords (word ++ [ch]) rest

/-- The operands after the mnemonic, separated by commas. -/
def readOperands : List (List Char) → Option (List Nat)
  | [] => some []
  | [w] => (readNumber w).map fun v => [v]
  | w :: comma :: rest =>
    if comma = [','] ∧ rest ≠ [] then
      match readNumber w, readOperands rest with
      | some v, some vs => some (v :: vs)
      | _, _ => none
    else none

/-- One line of a program; an empty line, or one that holds only a comment, stands for no command. -/
def assembleLine (cfg : Config) (line : List Char) : Except AsmError (List Command) :=
  match splitWords [] (stripComment line) with
  | [] => .ok []
  | w :: ws =>
    match findMnemonic w with
    | none => .error .unknownMnemonic
    | some m =>
      match readOperands ws with
      | none => .error .operandSyntax
      | some operands => assembleParsed cfg m operands

/-- A program: its lines in order; refused as a whole when a line is. -/
def assemble (cfg : Config) : List (List Char) → Except AsmError (List Command)
  | [] => .ok []
  | line :: rest =>
    match assembleLine cfg line with
    | .error e => .error e
    | .ok cs =>
      match assemble cfg rest with
      | .error e => .error e
      | .ok more => .ok (cs ++ more)

end Sys2Proof.Machine
end

