-- ==== Sys2Proof/Machine/Instances.lean ====
section
/-! DEFINITION. Several blocks side by side: they share no state (60_exceptions.md R73). -/

namespace Sys2Proof.Machine

/-- One step of block `k` of a row of blocks. There are no signals between blocks, so every other block stands as it was; a
number that no block has is no step. -/
def stepInstance (k : Nat) (blocks : List State) : Host.Outcome (List State) Fault Refusal :=
  match blocks[k]? with
  | none => .next blocks
  | some s =>
    match step s with
    | .next t => .next (blocks.set k t)
    | .fault f => .fault f
    | .refused r => .refused r

end Sys2Proof.Machine
end

