-- ==== Sys2Proof/Machine/Ports.lean ====
section
/-! DEFINITION. The block's ports (30_encoding.md R33), as functions of the state before a step. `cmd_ready` is
`State.cmdReady`, `status` is `State.status` and `rst` is `State.rst` (Machine/Flags.lean). Log entry 17. -/

namespace Sys2Proof.Machine

/-- `cmd_valid` with `cmd` and `arg`: the command the host offers in this step, `BUSY` and `rst` or not. -/
def State.cmdPort (s : State) : Option Command :=
  match s.host with
  | .offer c :: _ => some c
  | .idle :: _ => none
  | [] => none

/-- `cmd_valid`. -/
def State.cmdValid (s : State) : Bool := s.cmdPort.isSome

/-- What a step has added to a history: the newest entries, oldest first. -/
def added {α : Type} (before after : List α) : List α := after.drop before.length

/-- `out_data` in the step taken from `s`; none while `out_valid = 0`. -/
def State.outPort (s : State) : Option Byte :=
  match step s with
  | .next t => (added s.out t.out).head?
  | .fault _ => none
  | .refused _ => none

/-- `out_valid`: 1 in the step a byte is emitted. -/
def State.outValid (s : State) : Bool := s.outPort.isSome

/-- `rd_data` in the step taken from `s`; none while `rd_valid = 0`. -/
def State.rdPort (s : State) : Option Word :=
  match step s with
  | .next t => (added s.rd t.rd).head?
  | .fault _ => none
  | .refused _ => none

/-- `rd_valid`: 1 in the step a read word is given. -/
def State.rdValid (s : State) : Bool := s.rdPort.isSome

end Sys2Proof.Machine
end

