-- ==== Sys2Proof/Safety.lean ====
section
/-! DEFINITION. The terms claims use: the invariant of a block, faulted and ended runs, what of a state is the block's. -/

namespace Sys2Proof.Machine

/-- `TABLE[i] = RULE[i]`, as `build_rule` makes it, at every moment (10_state.md R9). -/
abbrev State.TableOfRule (s : State) : Prop := s.table = buildRule s.rule

/-- The counters are `ARG_WIDTH`-bit numbers (10_state.md R11, R12) of a bus of at least 8 bits (00_scope.md R3). -/
abbrev State.CountersFit (s : State) : Prop :=
  s.cfg.valid ∧ s.iterCnt < s.cfg.argLimit ∧ s.byteCnt < s.cfg.argLimit

/-- At most one counter is non-zero (10_state.md R14). -/
abbrev State.OneCounter (s : State) : Prop := s.iterCnt = 0 ∨ s.byteCnt = 0

/-- A faulted block is not busy (60_exceptions.md R67), and `CAUSE` names a fault exactly when `ERR = 1` (10_state.md R15,
60_exceptions.md R64). -/
abbrev State.FaultRecord (s : State) : Prop :=
  (s.err = true → s.iterCnt = 0 ∧ s.byteCnt = 0) ∧ (s.err = true ↔ s.cause ≠ .none)

/-- Until a rule is loaded `RULE` holds its reset value and no evolution is under way (10_state.md R8,
41_state_evolution.md R50). -/
abbrev State.NoRuleYet (s : State) : Prop := s.ruleValid = false → s.rule = 0x00#8 ∧ s.iterCnt = 0

/-- The byte lane is 0 while an evolution is under way: `EVOLVE` sets it and nothing is emitted before the engine is done
(10_state.md R13, R20). -/
abbrev State.LaneAtStart (s : State) : Prop := s.iterCnt ≠ 0 → s.byteIdx = 0#2

/-- The invariant of a block: reset has it and every step keeps it. -/
abbrev State.Inv (s : State) : Prop :=
  s.TableOfRule ∧ s.CountersFit ∧ s.OneCounter ∧ s.FaultRecord ∧ s.NoRuleYet ∧ s.LaneAtStart

/-- Ready for a command: no fault since reset and no engine work left. -/
abbrev State.Ready (s : State) : Prop := s.err = false ∧ s.busy = false

/-- `k` steps of the machine, stopping where a step does; the same as the host's `Core.run` of `core`
(`runFor_eq_core_run`, Laws/Step.lean). -/
def runFor : Nat → State → Result
  | 0, s => .next s
  | k + 1, s =>
    match step s with
    | .next t => runFor k t
    | .fault f => .fault f
    | .refused r => .refused r

/-- The run has ended: the host has no further command to offer and `BUSY = 0` (10_state.md R23). -/
def State.runEnded (s : State) : Bool := s.host.all (fun e => e == .idle) && !s.busy

/-- The pair of histories a run results in (10_state.md R23). -/
def State.runResult (s : State) : List Byte × List Word := (s.out, s.rd)

/-- The host asserts no reset in the next `k` steps; what it does with `rst` later is open. -/
def State.noResetFor (k : Nat) (s : State) : Bool := (s.rstIn.take k).all fun level => !level

/-- Every command the host still offers is one the bus can carry. -/
def State.offersFit (s : State) : Bool :=
  s.host.all fun e =>
    match e with
    | .offer c => c.fits s.cfg
    | .idle => true

/-- The state with its histories set aside: two states that agree here differ at most in what was observed earlier. -/
def State.forget (s : State) : State := { s with out := [], rd := [] }

end Sys2Proof.Machine
end

