-- ==== Sys2Proof/Certificates/Slice0/Obligations.lean ====
section
/-! DEFINITION. The statements for the provers. Each formalises rules R<n> of spec/; OBLIGATIONS.json says which. -/

open Sys2Proof Sys2Proof.Machine

/-! ## Encoding -/

/-- `decode(cmd)` is the mnemonic of the table for `0x00` to `0x08` and `ILLEGAL` for every other value (R35), the operand
being the whole of `arg` or none (R36). -/
def Obligations.CommandCodesDecode : Prop :=
  ∀ c : Command,
    (c.cmd = 0x00#8 → decode c = .ok .nop) ∧
    (c.cmd = 0x01#8 → decode c = .ok (.ldrule c.arg)) ∧
    (c.cmd = 0x02#8 → decode c = .ok .init) ∧
    (c.cmd = 0x03#8 → decode c = .ok .step) ∧
    (c.cmd = 0x04#8 → decode c = .ok (.evolve c.arg)) ∧
    (c.cmd = 0x05#8 → decode c = .ok .emit) ∧
    (c.cmd = 0x06#8 → decode c = .ok (.emitn c.arg)) ∧
    (c.cmd = 0x07#8 → decode c = .ok .rdstate) ∧
    (c.cmd = 0x08#8 → decode c = .ok .rdrule) ∧
    (9 ≤ c.cmd.toNat → decode c = .error (.illegal c.cmd))

/-- Words written out from the table: `cmd` in bits 7 to 0, the operand above. The common numbering of `cmd` and `arg` is
the model's choice (log entry 11). -/
def Obligations.TableWordsDecode : Prop :=
  decodeTableWord 8 0b00000000 = some .nop ∧
  decodeTableWord 72 0x6E01 = some (.ldrule 0x6E) ∧
  decodeTableWord 8 0b00000010 = some .init ∧
  decodeTableWord 8 0b00000011 = some .step ∧
  decodeTableWord 72 0x6404 = some (.evolve 100) ∧
  decodeTableWord 8 0b00000101 = some .emit ∧
  decodeTableWord 72 0x0506 = some (.emitn 5) ∧
  decodeTableWord 8 0b00000111 = some .rdstate ∧
  decodeTableWord 8 0b00001000 = some .rdrule ∧
  decodeTableWord 8 0b00001001 = none ∧
  decodeTableWord 8 0b11111111 = none

/-- Decoding and encoding agree: the transaction of every command whose operand the bus can carry, taken as one number of
`8 + ARG_WIDTH` bits (numbering: log entry 11), is read back as that command, for every `ARG_WIDTH`. -/
def Obligations.EncodedTransactionDecodes : Prop :=
  ∀ (cfg : Config) (i : Instr), i.wf cfg = true →
    (encode i).toNumber < 2 ^ (8 + cfg.argWidth) ∧
    decodeTableWord (8 + cfg.argWidth) (encode i).toNumber = some i

/-- The other direction: a transaction that decodes is the one the assembler writes for its command, but for the operand of
a command without one, which is ignored: any value, the same command. -/
def Obligations.DecodedTransactionReencodes : Prop :=
  ∀ (c : Command) (i : Instr), decode c = .ok i →
    (encode i).cmd = c.cmd ∧
    ((encode i).arg = c.arg ∨ ((encode i).arg = 0 ∧ ∀ a : Nat, decode ⟨c.cmd, a⟩ = .ok i))

/-! ## The step -/

/-- An idle block that is offered a command in a step without reset performs exactly that command on the state without the
offer (R19). The script and the level of `rst` are the model's form of the host (log entry 2). -/
def Obligations.StepPerformsDecodedCommand : Prop :=
  ∀ (s : State) (c : Command) (rest : List HostEvent) (i : Instr),
    s.rst = false → s.busy = false → s.host = .offer c :: rest → c.fits s.cfg = true → decode c = .ok i →
    step s = exec i { s with host := rest, rstIn := s.rstIn.tail }

/-- The transaction that `withFetchWord` presents is performed by the very next step, whatever the block was doing. This is
about the model's own way to place a command: that it clears both counters and puts the offer in front is log entry 3, the
common numbering of `cmd` and `arg` log entry 11, both DESIGN CHOICE; a block of the spec that is busy holds the command
(R19). -/
def Obligations.PresentedWordRuns : Prop :=
  ∀ (s : State) (nbits w : Nat) (i : Instr),
    decodeTableWord nbits w = some i → (Command.ofNumber nbits w).fits s.cfg = true →
    step (s.withFetchWord nbits w) = exec i { s with iterCnt := 0, byteCnt := 0 }

/-- An accepted code from `0x09` to `0xFF` raises `ILLEGAL_CMD` with no other effect (R37, R66), and is discarded while
`ERR = 1` (R67).The script and the level of `rst` are the model's form of the host (log entry 2). -/
def Obligations.IllegalCodeFaults : Prop :=
  ∀ (s : State) (c : Command) (rest : List HostEvent),
    s.rst = false → s.busy = false → s.host = .offer c :: rest → c.fits s.cfg = true → 9 ≤ c.cmd.toNat →
    (s.err = false →
      step s = .next { s with host := rest, rstIn := s.rstIn.tail, err := true, cause := .illegalCmd }) ∧
    (s.err = true → step s = .next { s with host := rest, rstIn := s.rstIn.tail })

/-- An offered command leaves the host's hands in a step without reset exactly when `cmd_ready` is 1, and `cmd_ready` is
`not BUSY` (R19). In a step with reset it is not accepted, busy or not (R76); that the host goes on holding it is the model's
reading of R22 (log entry 4). -/
def Obligations.AcceptedExactlyWhenReady : Prop :=
  ∀ (s t : State) (c : Command) (rest : List HostEvent), step s = .next t →
    (s.cmdReady = true ↔ s.busy = false) ∧
    (s.host = .offer c :: rest →
      (s.rst = false → s.cmdReady = true → t.host = rest) ∧
      (s.rst = false → s.cmdReady = false → t.host = .offer c :: rest) ∧
      (s.rst = true → t.host = .offer c :: rest))

/-- An engine evolution step (R51, R20): in every step without reset in which `ITER_CNT` is not 0; an offered command is
held (R19). That the host's idle step and level of `rst` are used up is the model's form of the host (log entry 2, DESIGN
CHOICE). -/
def Obligations.EngineEvolutionStep : Prop :=
  ∀ s : State, s.rst = false → s.iterCnt ≠ 0 →
    step s = .next { s with
      state := next s.table s.state, iterCnt := s.iterCnt - 1, host := afterIdle s.host, rstIn := s.rstIn.tail }

/-- An engine emission step (R57, R20): in every step without reset in which only `BYTE_CNT` is not 0, the byte of lane
`BYTE_IDX`, the lane advanced modulo 4, one byte fewer to go; an offered command is held (R19). That the host's idle step and
level of `rst` are used up is the model's form of the host (log entry 2, DESIGN CHOICE). -/
def Obligations.EngineEmissionStep : Prop :=
  ∀ s : State, s.rst = false → s.iterCnt = 0 → s.byteCnt ≠ 0 →
    step s = .next { s with
      out := s.out ++ [s.state.extractLsb' (8 * s.byteIdx.toNat) 8],
      byteIdx := BitVec.ofNat 2 ((s.byteIdx.toNat + 1) % 4),
      byteCnt := s.byteCnt - 1,
      host := afterIdle s.host, rstIn := s.rstIn.tail }

/-- With `BUSY = 0`, no reset and nothing offered the block keeps all state (R75; that idling is a step: log entry 12). A
run has ended exactly when the host has no further command to offer and `BUSY = 0` (R23).The script and the level of `rst` are
the model's form of the host (log entry 2). -/
def Obligations.IdleKeepsAllState : Prop :=
  ∀ s : State,
    (s.rst = false → s.busy = false → s.cmdValid = false →
      step s = .next { s with host := s.host.tail, rstIn := s.rstIn.tail }) ∧
    (s.runEnded = true ↔ (∀ c, .offer c ∉ s.host) ∧ s.busy = false)

/-- Reset, at any moment and whatever is in progress, offered or held, gives every state element its reset value: what was
in progress is over, a command offered in the same step has no effect, and the histories are not cleared (R76). -/
def Obligations.ResetSetsEveryElement : Prop :=
  ∀ s : State, s.rst = true →
    ∃ t, step s = .next t ∧
      t.rule = 0x00#8 ∧ t.ruleValid = false ∧ (∀ i, i < 8 → t.table[i]? = some false) ∧ t.state = 0x00000001#32 ∧
      t.iterCnt = 0 ∧ t.byteCnt = 0 ∧ t.byteIdx = 0#2 ∧ t.err = false ∧ t.cause = .none ∧
      t.status = 0x00#8 ∧ t.cmdReady = true ∧
      t.out = s.out ∧ t.rd = s.rd

/-- `State.reset` holds the values of R76 and empty histories (R16). -/
def Obligations.ResetStateValues : Prop :=
  State.reset.rule = 0x00#8 ∧ State.reset.ruleValid = false ∧
  (∀ i, i < 8 → State.reset.table[i]? = some false) ∧
  State.reset.state = 0x00000001#32 ∧ State.reset.iterCnt = 0 ∧ State.reset.byteCnt = 0 ∧
  State.reset.byteIdx = 0#2 ∧ State.reset.err = false ∧ State.reset.cause = .none ∧
  State.reset.status = 0x00#8 ∧ State.reset.cmdReady = true ∧ State.reset.out = [] ∧ State.reset.rd = []

/-- The fields of the status port (R17) and the codes of `CAUSE` (R64). -/
def Obligations.StatusPortLayout : Prop :=
  (∀ s : State,
    s.status.getLsbD 0 = s.busy ∧ s.status.getLsbD 1 = s.err ∧ s.status.extractLsb' 2 2 = s.cause.code ∧
    s.status.getLsbD 4 = s.ruleValid ∧ s.status.extractLsb' 5 2 = s.byteIdx ∧ s.status.getLsbD 7 = false) ∧
  Cause.none.code = 0#2 ∧ Cause.illegalCmd.code = 1#2 ∧ Cause.argRange.code = 2#2 ∧ Cause.noRule.code = 3#2 ∧
  State.reset.status = 0x00#8

/-! ## The commands -/

/-- `NOP` (R61): no effect, in every state. -/
def Obligations.NopDoesNothing : Prop :=
  (∀ a : Nat, decode ⟨0x00#8, a⟩ = .ok .nop) ∧ ∀ s : State, exec .nop s = .next s

/-- `LDRULE` (R43). -/
def Obligations.LdruleLoadsRule : Prop :=
  (∀ a : Nat, decode ⟨0x01#8, a⟩ = .ok (.ldrule a)) ∧
  ∀ (arg : Nat) (s : State),
    (s.err = true → exec (.ldrule arg) s = .next s) ∧
    (s.err = false → 256 ≤ arg → exec (.ldrule arg) s = .next { s with err := true, cause := .argRange }) ∧
    (s.err = false → arg < 256 →
      exec (.ldrule arg) s = .next { s with
        rule := BitVec.ofNat 8 arg, table := buildRule (BitVec.ofNat 8 arg), ruleValid := true })

/-- `INIT` (R48). -/
def Obligations.InitPutsStartState : Prop :=
  (∀ a : Nat, decode ⟨0x02#8, a⟩ = .ok .init) ∧
  ∀ s : State,
    (s.err = true → exec .init s = .next s) ∧
    (s.err = false → exec .init s = .next { s with state := 0x00000001#32, byteIdx := 0#2 })

/-- `STEP` (R49): the next register of the transition function, lane 0; `NO_RULE` before any `LDRULE`. -/
def Obligations.StepAdvancesRegister : Prop :=
  (∀ a : Nat, decode ⟨0x03#8, a⟩ = .ok .step) ∧
  ∀ s : State,
    (s.err = true → exec .step s = .next s) ∧
    (s.err = false → s.ruleValid = false → exec .step s = .next { s with err := true, cause := .noRule }) ∧
    (s.err = false → s.ruleValid = true →
      exec .step s = .next { s with state := next s.table s.state, byteIdx := 0#2 })

/-- `EVOLVE n` at acceptance (R50). -/
def Obligations.EvolveLoadsCount : Prop :=
  (∀ a : Nat, decode ⟨0x04#8, a⟩ = .ok (.evolve a)) ∧
  ∀ (n : Nat) (s : State),
    (s.err = true → exec (.evolve n) s = .next s) ∧
    (s.err = false → s.ruleValid = false → exec (.evolve n) s = .next { s with err := true, cause := .noRule }) ∧
    (s.err = false → s.ruleValid = true →
      exec (.evolve n) s = .next { s with iterCnt := n, byteIdx := 0#2 })

/-- `EMIT` (R55). -/
def Obligations.EmitGivesLaneByte : Prop :=
  (∀ a : Nat, decode ⟨0x05#8, a⟩ = .ok .emit) ∧
  ∀ s : State,
    (s.err = true → exec .emit s = .next s) ∧
    (s.err = false → exec .emit s = .next { s with
      out := s.out ++ [s.state.extractLsb' (8 * s.byteIdx.toNat) 8],
      byteIdx := BitVec.ofNat 2 ((s.byteIdx.toNat + 1) % 4) })

/-- `EMITN n` at acceptance (R56). -/
def Obligations.EmitnLoadsCount : Prop :=
  (∀ a : Nat, decode ⟨0x06#8, a⟩ = .ok (.emitn a)) ∧
  ∀ (n : Nat) (s : State),
    (s.err = true → exec (.emitn n) s = .next s) ∧
    (s.err = false → exec (.emitn n) s = .next { s with byteCnt := n })

/-- `RDSTATE` (R53): the register, in every state. -/
def Obligations.RdstateGivesRegister : Prop :=
  (∀ a : Nat, decode ⟨0x07#8, a⟩ = .ok .rdstate) ∧
  ∀ s : State, exec .rdstate s = .next { s with rd := s.rd ++ [s.state] }

/-- `RDRULE` (R44): bit 8 is `RULE_VALID`, bits 7:0 `RULE`, bits 31:9 are 0, in every state. -/
def Obligations.RdruleGivesRule : Prop :=
  (∀ a : Nat, decode ⟨0x08#8, a⟩ = .ok .rdrule) ∧
  ∀ s : State, exec .rdrule s =
    .next { s with rd := s.rd ++ [BitVec.ofNat 32 (256 * s.ruleValid.toNat + s.rule.toNat)] }

/-- While `ERR = 1` every command but `NOP`, `RDSTATE` and `RDRULE` is discarded with no effect, those three are performed
(R67). -/
def Obligations.DiscardedWhileErr : Prop :=
  ∀ (s : State) (i : Instr), s.err = true →
    exec i s =
      if i = .rdstate then .next { s with rd := s.rd ++ [s.state] }
      else if i = .rdrule then .next { s with rd := s.rd ++ [s.ruleWord] }
      else .next s

/-- `EVOLVE 0` on an idle block restarts the byte lane and changes nothing else (R79, R50). -/
def Obligations.EvolveZeroRestartsLane : Prop :=
  ∀ s : State, s.Ready → s.ruleValid = true → exec (.evolve 0) s = .next { s with byteIdx := 0#2 }

/-! ## Frames -/

/-- `LDRULE` leaves everything but `RULE`, `TABLE`, `RULE_VALID` and, when it faults, `ERR` and `CAUSE` (R43, R66). -/
def Obligations.RuleDecoderFrame : Prop :=
  ∀ (arg : Nat) (s t : State), exec (.ldrule arg) s = .next t →
    t.cfg = s.cfg ∧ t.state = s.state ∧ t.iterCnt = s.iterCnt ∧ t.byteCnt = s.byteCnt ∧ t.byteIdx = s.byteIdx ∧
    t.out = s.out ∧ t.rd = s.rd ∧ t.host = s.host ∧ t.rstIn = s.rstIn ∧
    (arg < 256 → t.err = s.err ∧ t.cause = s.cause) ∧
    (256 ≤ arg → t.rule = s.rule ∧ t.table = s.table ∧ t.ruleValid = s.ruleValid)

/-- `INIT`, `STEP` and `EVOLVE` leave the rule, the byte count and both histories; `STEP` and `EVOLVE` write `ERR` and
`CAUSE` only before any rule; only `EVOLVE` writes `ITER_CNT`, and it leaves `STATE` (R48 to R50). -/
def Obligations.EvolutionFrame : Prop :=
  ∀ (i : Instr) (s t : State), (i = .init ∨ i = .step ∨ ∃ n, i = .evolve n) → exec i s = .next t →
    t.cfg = s.cfg ∧ t.rule = s.rule ∧ t.table = s.table ∧ t.ruleValid = s.ruleValid ∧ t.byteCnt = s.byteCnt ∧
    t.out = s.out ∧ t.rd = s.rd ∧ t.host = s.host ∧ t.rstIn = s.rstIn ∧
    (i = .init ∨ s.ruleValid = true → t.err = s.err ∧ t.cause = s.cause) ∧
    (i = .init ∨ i = .step → t.iterCnt = s.iterCnt) ∧
    ((∃ n, i = .evolve n) → t.state = s.state) ∧
    (i ≠ .init → s.ruleValid = false → t.state = s.state ∧ t.iterCnt = s.iterCnt ∧ t.byteIdx = s.byteIdx)

/-- `EMIT` and `EMITN` leave the register, the rule and the fault record; `EMIT` writes `OUT` and `BYTE_IDX` only, `EMITN`
`BYTE_CNT` only (R55, R56). -/
def Obligations.SerializerFrame : Prop :=
  ∀ (i : Instr) (s t : State), (i = .emit ∨ ∃ n, i = .emitn n) → exec i s = .next t →
    t.cfg = s.cfg ∧ t.rule = s.rule ∧ t.table = s.table ∧ t.ruleValid = s.ruleValid ∧ t.state = s.state ∧
    t.iterCnt = s.iterCnt ∧ t.err = s.err ∧ t.cause = s.cause ∧ t.rd = s.rd ∧ t.host = s.host ∧ t.rstIn = s.rstIn ∧
    (i = .emit → t.byteCnt = s.byteCnt) ∧ ((∃ n, i = .emitn n) → t.out = s.out ∧ t.byteIdx = s.byteIdx)

/-- `NOP`, `RDSTATE` and `RDRULE` change no block state (R30, R44, R53, R61): all but `RD` is as before, and `NOP` leaves
that too. -/
def Obligations.ObservationFrame : Prop :=
  ∀ (i : Instr) (s t : State), (i = .nop ∨ i = .rdstate ∨ i = .rdrule) → exec i s = .next t →
    t.cfg = s.cfg ∧ t.rule = s.rule ∧ t.ruleValid = s.ruleValid ∧ t.table = s.table ∧ t.state = s.state ∧
    t.iterCnt = s.iterCnt ∧ t.byteCnt = s.byteCnt ∧ t.byteIdx = s.byteIdx ∧ t.err = s.err ∧ t.cause = s.cause ∧
    t.out = s.out ∧ t.host = s.host ∧ t.rstIn = s.rstIn ∧ (i = .nop → t.rd = s.rd)

/-! ## The functions of the datapath -/

/-- `build_rule(r)[i] = r[i]` (R42). -/
def Obligations.BuildRuleIsTheBits : Prop :=
  ∀ (r : Byte) (i : Nat), i < 8 → (buildRule r)[i]? = some (r.getLsbD i)

/-- Bit `c` of `next(table, s)` is the entry at `s[(c-1) mod 32] + 2*s[c] + 4*s[(c+1) mod 32]` (R46). -/
def Obligations.NextReadsNeighbourhood : Prop :=
  ∀ (table : RuleTable) (s : Word) (c : Nat), c < 32 →
    table[(s.getLsbD ((c + 31) % 32)).toNat + 2 * (s.getLsbD c).toNat + 4 * (s.getLsbD ((c + 1) % 32)).toNat]?
      = some ((next table s).getLsbD c)

/-- A column depends on its own three cells of the old register and on nothing else of it (R47). -/
def Obligations.NextIsLocal : Prop :=
  ∀ (table : RuleTable) (s u : Word) (c : Nat), c < 32 →
    s.getLsbD ((c + 31) % 32) = u.getLsbD ((c + 31) % 32) → s.getLsbD c = u.getLsbD c →
    s.getLsbD ((c + 1) % 32) = u.getLsbD ((c + 1) % 32) →
    (next table s).getLsbD c = (next table u).getLsbD c

/-- The rules R49 names, on every register: 204 keeps it, 170 rotates it left, 240 rotates it right, 51 complements it, 0
clears it, 255 fills it; and every rule on the empty register (R49, corner cases). -/
def Obligations.NamedRulesOnEveryRegister : Prop :=
  (∀ s : Word,
    next (buildRule 204#8) s = s ∧ next (buildRule 170#8) s = s.rotateLeft 1 ∧
    next (buildRule 240#8) s = s.rotateRight 1 ∧ next (buildRule 51#8) s = ~~~s ∧
    next (buildRule 0#8) s = 0x00000000#32 ∧ next (buildRule 255#8) s = 0xFFFFFFFF#32) ∧
  (∀ r : Byte, next (buildRule r) 0x00000000#32 = if r.getLsbD 0 then 0xFFFFFFFF#32 else 0x00000000#32)

/-- The spec's transition vectors V3, V8 and V9, which exercise both wrap-around cells (R45, R80). -/
def Obligations.TransitionVectors : Prop :=
  next (buildRule 110#8) 0x00000001#32 = 0x00000003#32 ∧
  next (buildRule 30#8) 0x00000001#32 = 0x80000003#32 ∧
  next (buildRule 110#8) 0x80000000#32 = 0x80000001#32

/-- `keystream(n, s)` has `n` bytes, byte `p` being `s[8*(p mod 4)+7 : 8*(p mod 4)]` (R54). -/
def Obligations.KeystreamBytes : Prop :=
  ∀ (n : Nat) (s : Word),
    (keystream n s).length = n ∧
    ∀ p, p < n → (keystream n s)[p]? = some (s.extractLsb' (8 * (p % 4)) 8)

/-- Bytes `p` and `p + 4` of `generate(n, r, i)` are equal (R60). -/
def Obligations.GenerateHasPeriodFour : Prop :=
  ∀ (n : Nat) (r : Byte) (i p : Nat), p + 4 < n →
    ∃ b, (generate n r i)[p]? = some b ∧ (generate n r i)[p + 4]? = some b

/-- The word `RDSTATE` gives and the bytes of the group agree (R28). -/
def Obligations.ReadWordMatchesGroup : Prop :=
  ∀ (s : State) (k : Nat), k < 4 →
    ∃ w, exec .rdstate s = .next { s with rd := s.rd ++ [w] } ∧
      (group s.state)[k]? = some (w.extractLsb' (8 * k) 8)

/-! ## Runs

In all of these the script, the levels of `rst` and that a step uses one of them up are the model's form of the host (log
entry 2), and the number of steps is the model's, which has no waits between engine steps (log entry 16): both DESIGN
CHOICE. -/

/-- An accepted `EVOLVE n` and `j` of its `n` engine steps (R50, R51, R52, R11), no reset being asserted in them: the
register is `next^j`, `n - j` steps are left, commands offered meanwhile are held. -/
def Obligations.EvolveRunsItsSteps : Prop :=
  ∀ (n j : Nat) (s : State) (rest : List Instr),
    s.Ready → s.ruleValid = true → n < s.cfg.argLimit → s.host = script (.evolve n :: rest) → j ≤ n →
    s.noResetFor (1 + j) = true →
    runFor (1 + j) s = .next { s with
      state := nextIter s.table j s.state, iterCnt := n - j, byteIdx := 0#2,
      host := script rest, rstIn := s.rstIn.drop (1 + j) }

/-- `EVOLVE n` ends in the state of `n` accepted `STEP` commands (R52), no reset being asserted meanwhile; the one step more
that `EVOLVE` takes shows in the coming levels of `rst` only. For `n = 0` no `STEP` restarts the byte lane as `EVOLVE 0`
does, so there the register alone is compared. -/
def Obligations.EvolveEqualsSteps : Prop :=
  ∀ (n : Nat) (s : State) (rest : List Instr),
    s.Ready → s.ruleValid = true → n < s.cfg.argLimit → s.noResetFor (1 + n) = true →
    ∃ t u,
      runFor (1 + n) { s with host := script (.evolve n :: rest) } = .next t ∧
      runFor n { s with host := script (List.replicate n .step ++ rest) } = .next u ∧
      t.state = u.state ∧ (n ≠ 0 → t = { u with rstIn := u.rstIn.tail })

/-- An accepted `EMITN n` and `j` of its `n` engine steps (R56, R57, R58, R12), no reset being asserted in them: the next `j`
bytes of the repeated group from the current lane on. -/
def Obligations.EmitnRunsItsBytes : Prop :=
  ∀ (n j : Nat) (s : State) (rest : List Instr),
    s.Ready → n < s.cfg.argLimit → s.host = script (.emitn n :: rest) → j ≤ n → s.noResetFor (1 + j) = true →
    runFor (1 + j) s = .next { s with
      out := s.out ++ (keystream (s.byteIdx.toNat + j) s.state).drop s.byteIdx.toNat,
      byteCnt := n - j, byteIdx := BitVec.ofNat 2 ((s.byteIdx.toNat + j) % 4),
      host := script rest, rstIn := s.rstIn.drop (1 + j) }

/-- `EMITN a` followed by `EMITN b` ends as `EMITN (a + b)` does, and `EMITN 1` as `EMIT` (R58), no reset being asserted
meanwhile; the one step more that the longer form takes shows in the coming levels of `rst` only. -/
def Obligations.SplitEmission : Prop :=
  ∀ (a b : Nat) (s : State) (rest : List Instr), s.Ready → s.cfg.valid → a + b < s.cfg.argLimit →
    s.noResetFor (2 + a + b) = true →
    ∃ t u,
      runFor (1 + (a + b)) { s with host := script (.emitn (a + b) :: rest) } = .next t ∧
      runFor (2 + a + b) { s with host := script (.emitn a :: .emitn b :: rest) } =
        .next { t with rstIn := t.rstIn.tail } ∧
      runFor 1 { s with host := script (.emit :: rest) } = .next u ∧
      runFor 2 { s with host := script (.emitn 1 :: rest) } = .next { u with rstIn := u.rstIn.tail }

/-- `GENERATE n, r, i` from any state with `ERR = 0` and `BUSY = 0` appends to `OUT` exactly the source's
`generate(n, r, i)` and leaves the state R59 gives, whatever a previous generation left, no reset being asserted meanwhile.
That it takes `4 + i + n` steps is the model's, which has no waits between engine steps (log entry 16, DESIGN CHOICE); R59
counts none. The script and the levels of `rst` are the model's form of the host (log entry 2, DESIGN CHOICE). -/
def Obligations.GenerateEmitsTheKeystream : Prop :=
  ∀ (n r i : Nat) (s : State) (rest : List Instr),
    s.Ready → s.cfg.valid → r ≤ 255 → n < s.cfg.argLimit → i < s.cfg.argLimit →
    s.host = script (expandGenerate n r i ++ rest) → s.noResetFor (4 + i + n) = true →
    runFor (4 + i + n) s = .next { s with
      rule := BitVec.ofNat 8 r, ruleValid := true, table := buildRule (BitVec.ofNat 8 r),
      state := evolve (BitVec.ofNat 8 r) i, iterCnt := 0, byteCnt := 0, byteIdx := BitVec.ofNat 2 (n % 4),
      out := s.out ++ generate n (BitVec.ofNat 8 r) i, host := script rest, rstIn := s.rstIn.drop (4 + i + n) }

/-- A `NOP` between any two commands changes nothing of a run but the one step it takes (R61): for hosts that offer commands
of the table one after another, with no idle steps between them, and assert no reset meanwhile. The step it takes shows in
the coming levels of `rst` only. -/
def Obligations.NopIsTransparent : Prop :=
  ∀ (k : Nat) (s t : State) (before after : List Instr), s.noResetFor (k + 1) = true →
    runFor k { s with host := script (before ++ after) } = .next t → t.runEnded = true →
    runFor (k + 1) { s with host := script (before ++ .nop :: after) } = .next { t with rstIn := t.rstIn.tail }

/-! ## The whole machine -/

/-- The invariant holds at reset. -/
def Obligations.ResetHasInvariant : Prop := State.reset.Inv

/-- Every step keeps the invariant: `TABLE` is the table of `RULE` (R9), the counters are `ARG_WIDTH`-bit numbers (R11, R12)
of which at most one is non-zero (R14), a faulted block is idle and `CAUSE` names its fault (R15, R67), no rule is held or
used before one is loaded (R8), and the lane is 0 during an evolution (R13). -/
def Obligations.StepKeepsInvariant : Prop := ∀ s t : State, s.Inv → step s = .next t → t.Inv

/-- In one step at most one byte leaves and at most one word, never both, and what leaves is what the ports carry; the
histories are otherwise kept and the parameter never changes (R16, R30, R33). -/
def Obligations.OutputsOneAtATime : Prop :=
  ∀ s t : State, step s = .next t →
    t.out = s.out ++ s.outPort.toList ∧ t.rd = s.rd ++ s.rdPort.toList ∧
    (s.outValid = false ∨ s.rdValid = false) ∧ t.cfg = s.cfg

/-- Only `INIT`, `STEP`, an engine evolution step and reset write `STATE` (R10). -/
def Obligations.RegisterHasFourWriters : Prop :=
  ∀ s t : State, step s = .next t → t.state ≠ s.state →
    s.rst = true ∨ s.iterCnt ≠ 0 ∨
    ∃ c rest, s.host = .offer c :: rest ∧ s.busy = false ∧ s.err = false ∧
      (decode c = .ok .init ∨ decode c = .ok .step)

/-- Only a performed `LDRULE` and reset write `RULE`, `RULE_VALID` and `TABLE` (R8, R9). -/
def Obligations.RuleHasTwoWriters : Prop :=
  ∀ s t : State, step s = .next t → (t.rule ≠ s.rule ∨ t.ruleValid ≠ s.ruleValid ∨ t.table ≠ s.table) →
    s.rst = true ∨
    ∃ c rest, s.host = .offer c :: rest ∧ s.busy = false ∧ s.err = false ∧ c.arg < 256 ∧
      decode c = .ok (.ldrule c.arg)

/-- What moves the byte lane (R13): reset and performed `INIT`, `STEP`, `EVOLVE` set it to 0, an emitted byte advances it by
1 modulo 4, nothing else changes it. -/
def Obligations.LaneMovesOnlySo : Prop :=
  ∀ s t : State, step s = .next t → t.byteIdx ≠ s.byteIdx →
    (s.outValid = true ∧ t.byteIdx.toNat = (s.byteIdx.toNat + 1) % 4) ∨
    (t.byteIdx = 0#2 ∧ (s.rst = true ∨
      ∃ c rest, s.host = .offer c :: rest ∧ s.busy = false ∧ s.err = false ∧
        (decode c = .ok .init ∨ decode c = .ok .step ∨ decode c = .ok (.evolve c.arg))))

/-- Which accepted commands fault, and with which cause (R64, R65); and faults are precise: nothing but `ERR` and `CAUSE`
changes (R66). -/
def Obligations.FaultsArePrecise : Prop :=
  ∀ (i : Instr) (s t : State), s.err = false → exec i s = .next t →
    (t.err = true ↔ (∃ a, i = .ldrule a ∧ 256 ≤ a) ∨ ((i = .step ∨ ∃ n, i = .evolve n) ∧ s.ruleValid = false)) ∧
    ((∃ a, i = .ldrule a) → t.err = true → t = { s with err := true, cause := .argRange }) ∧
    ((i = .step ∨ ∃ n, i = .evolve n) → t.err = true → t = { s with err := true, cause := .noRule })

/-- A step raises a fault only by accepting a command: engine steps, idling and reset never do (R63), and `ERR` is only
cleared by reset (R15, R68). -/
def Obligations.OnlyAcceptanceFaults : Prop :=
  ∀ s t : State, step s = .next t →
    (t.err = true → s.err = false → s.busy = false ∧ s.rst = false ∧ s.cmdValid = true) ∧
    (s.err = true → t.err = false → s.rst = true) ∧
    (s.err = true → s.rst = false → t.cause = s.cause)

/-- After a fault and until reset nothing changes but `RD`, whatever commands follow, for any number of steps (R67, R68). -/
def Obligations.FaultedBlockOnlyAnswersReads : Prop :=
  ∀ (k : Nat) (s t : State), s.Inv → s.err = true → s.noResetFor k = true → runFor k s = .next t →
    t = { s with rd := t.rd, host := t.host, rstIn := s.rstIn.drop k } ∧ ∃ more, t.rd = s.rd ++ more

/-- Every value on an output port is a function of the reset and of what the host then does (R2): two blocks of one width
that are reset by hosts which from that step on do the same, step for step (the same commands, the same idle steps, the same
resets), go through the same states and give the same bytes and words, whatever they held before. -/
def Obligations.OutputsDependOnCommandsOnly : Prop :=
  ∀ (k : Nat) (s u t : State),
    s.cfg = u.cfg → s.rst = true → s.host = u.host → s.rstIn = u.rstIn →
    runFor (k + 1) s = .next t →
    ∃ v bytes words, runFor (k + 1) u = .next v ∧ v.forget = t.forget ∧
      t.out = s.out ++ bytes ∧ v.out = u.out ++ bytes ∧ t.rd = s.rd ++ words ∧ v.rd = u.rd ++ words

/-- A block never stops: for every host whose operands the bus can carry, any number of steps has a next state, resets or
not (R63, R21). -/
def Obligations.BlockNeverStops : Prop :=
  ∀ (k : Nat) (s : State), s.offersFit = true → ∃ t, runFor k s = .next t ∧ t.offersFit = true

/-- The one stop of the model: an idle block, not being reset, whose host offers an operand of `2^ARG_WIDTH` or more, which
no bus can carry (R3). The refusal is the model's own (log entry 5). -/
def Obligations.OnlyWideOperandsAreRefused : Prop :=
  ∀ s : State, (∃ r, step s = .refused r) ↔
    s.rst = false ∧ s.busy = false ∧ ∃ c rest, s.host = .offer c :: rest ∧ s.cfg.argLimit ≤ c.arg

/-! ## Around the block -/

/-- `GENERATE` and `SETUP` expand as R40 says, when the operands meet the limits of R39. -/
def Obligations.PseudoInstructionsExpand : Prop :=
  ∀ (cfg : Config) (n r i : Nat), n < cfg.argLimit → r ≤ 255 → i < cfg.argLimit →
    assembleParsed cfg .generate [n, r, i] = .ok [⟨0x01#8, r⟩, ⟨0x02#8, 0⟩, ⟨0x04#8, i⟩, ⟨0x06#8, n⟩] ∧
    assembleParsed cfg .setup [r, i] = .ok [⟨0x01#8, r⟩, ⟨0x02#8, 0⟩, ⟨0x04#8, i⟩]

/-- Every transaction an assembler produces, from any text, is one the bus can carry, decodes, and raises neither
`ILLEGAL_CMD` nor `ARG_RANGE` (R39). -/
def Obligations.AssembledCommandsAreLegal : Prop :=
  ∀ (cfg : Config) (lines : List (List Char)) (cs : List Command), cfg.valid → assemble cfg lines = .ok cs →
    ∀ c ∈ cs, c.fits cfg = true ∧ ∃ i, decode c = .ok i ∧ c = encode i ∧ ∀ a, i = .ldrule a → a ≤ 255

/-- The assembler reads decimal operands and hexadecimal operands with a `0x` prefix, of any size, 0 included, written
without leading zeros (R39). That hexadecimal digits may be lower case, upper case or mixed is the model's choice (log entry
18, DESIGN CHOICE): R39 shows upper-case ones. -/
def Obligations.AssemblerReadsNumbers : Prop :=
  readNumber ['0'] = some 0 ∧ readNumber ['0', 'x', '0'] = some 0 ∧
  ∀ n : Nat, 0 < n →
    readNumber ((Nat.digits 10 n).reverse.map Nat.digitChar) = some n ∧
    ∀ digits : List Char, digits.map Char.toLower = (Nat.digits 16 n).reverse.map Nat.digitChar →
      readNumber ('0' :: 'x' :: digits) = some n

/-- `combine` (R62): the exclusive-or position by position, as long as the shorter input, and its own inverse. -/
def Obligations.CombineIsSelfInverse : Prop :=
  ∀ d k : List Byte,
    (combine d k).length = min d.length k.length ∧
    (∀ (p : Nat) (x y : Byte), d[p]? = some x → k[p]? = some y → (combine d k)[p]? = some (x ^^^ y)) ∧
    (d.length ≤ k.length → combine (combine d k) k = d)

/-- Several blocks share no state: a step of one leaves every other as it was and depends on that one alone (R73). -/
def Obligations.BlocksShareNothing : Prop :=
  ∀ (k : Nat) (blocks after : List State), stepInstance k blocks = .next after →
    after.length = blocks.length ∧ (∀ j, j ≠ k → after[j]? = blocks[j]?) ∧
    ∀ s, blocks[k]? = some s → ∃ t, step s = .next t ∧ after[k]? = some t
end

