-- ==== Sys2Proof/Laws/Bits.lean ====
section
/-! SUPPORT. The bit operations bit by bit, and the combination of the columns of a step. -/

namespace Sys2Proof.Machine

/-- `rotr8(x, i)[k] = x[(k + i) mod 8]` (00_scope.md R5). -/
theorem rotr8_getLsbD (x : Byte) {i k : Nat} (hi : i < 8) (hk : k < 8) :
    (rotr8 x i).getLsbD k = x.getLsbD ((k + i) % 8) := by
  rw [rotr8, BitVec.getLsbD_rotateRight_of_lt hi]
  by_cases h : k < 8 - i
  · rw [decide_eq_true h, cond_true, Nat.mod_eq_of_lt (by omega), Nat.add_comm]
  · rw [decide_eq_false h, cond_false, decide_eq_true hk, Bool.true_and, show (k + i) % 8 = k - (8 - i) by omega]

/-- `rotr32(x, i)[k] = x[(k + i) mod 32]` (00_scope.md R6). -/
theorem rotr32_getLsbD (x : Word) {i k : Nat} (hi : i < 32) (hk : k < 32) :
    (rotr32 x i).getLsbD k = x.getLsbD ((k + i) % 32) := by
  rw [rotr32, BitVec.getLsbD_rotateRight_of_lt hi]
  by_cases h : k < 32 - i
  · rw [decide_eq_true h, cond_true, Nat.mod_eq_of_lt (by omega), Nat.add_comm]
  · rw [decide_eq_false h, cond_false, decide_eq_true hk, Bool.true_and, show (k + i) % 32 = k - (32 - i) by omega]

/-- `rotl32(x, i)[k] = x[(k - i) mod 32]` (00_scope.md R6). -/
theorem rotl32_getLsbD (x : Word) {i k : Nat} (hi : i < 32) (hk : k < 32) :
    (rotl32 x i).getLsbD k = x.getLsbD ((k + 32 - i) % 32) := by
  rw [rotl32, BitVec.getLsbD_rotateLeft_of_le hi]
  by_cases h : k < i
  · rw [decide_eq_true h, cond_true, show (k + 32 - i) % 32 = 32 - i + k by omega]
  · rw [decide_eq_false h, cond_false, decide_eq_true hk, Bool.true_and, show (k + 32 - i) % 32 = k - i by omega]

/-- Bit `k` of the byte in lane `j` is bit `8 * j + k` of the register. -/
theorem byteOf_getLsbD (x : Word) (j : Nat) {k : Nat} (hk : k < 8) :
    (byteOf x j).getLsbD k = x.getLsbD (8 * j + k) := by
  rw [byteOf, BitVec.getLsbD_extractLsb', decide_eq_true hk, Bool.true_and]

/-- Bit `k` of a one shifted to place `n`. -/
theorem one_shiftLeft_getLsbD (n k : Nat) :
    (1#32 <<< n).getLsbD k = (decide (k < 32) && decide (k = n)) := by
  rw [BitVec.getLsbD_shiftLeft, BitVec.getLsbD_one]
  by_cases hk : k < 32 <;> by_cases hn : k = n <;> simp [hk, hn]
  omega

/-- Each column sets its own bit and no other. -/
theorem combineColumns_getLsbD (f : Nat → Bool) (n k : Nat) :
    (combineColumns f n).getLsbD k = (decide (k < n) && decide (k < 32) && f k) := by
  induction n with
  | zero => simp [combineColumns]
  | succ n ih =>
    have hb : (if f n then 1#32 <<< n else 0#32).getLsbD k = (f n && decide (k < 32) && decide (k = n)) := by
      cases hf : f n with
      | true => simp only [if_true, one_shiftLeft_getLsbD, Bool.true_and]
      | false => simp
    rw [combineColumns, BitVec.getLsbD_or, ih, hb]
    by_cases hn : k = n
    · subst hn; cases f k <;> simp
    · have : decide (k < n + 1) = decide (k < n) := decide_eq_decide.mpr (by omega)
      rw [this]; simp [hn]

/-- Bit `c` of the next register is the result of column `c`. -/
theorem next_getLsbD (table : RuleTable) (s : Word) {c : Nat} (hc : c < 32) :
    (next table s).getLsbD c = column table (rotl32 s 1) c := by
  rw [next, combineColumns_getLsbD, decide_eq_true hc, Bool.true_and, Bool.true_and]

end Sys2Proof.Machine
end

