-- ==== Sys2Proof/Laws/State.lean ====
section
/-! SUPPORT. One lemma per field per update of the state, so that no proof unfolds a record update. -/

namespace Sys2Proof.Machine

@[simp] theorem afterIdle_nil : afterIdle [] = [] := rfl
@[simp] theorem afterIdle_idle (rest : List HostEvent) : afterIdle (.idle :: rest) = rest := rfl
@[simp] theorem afterIdle_offer (c : Command) (rest : List HostEvent) :
    afterIdle (.offer c :: rest) = .offer c :: rest := rfl

@[simp] theorem writeRule_cfg (s : State) (r : Byte) (t : RuleTable) : (s.writeRule r t).cfg = s.cfg := rfl
@[simp] theorem writeRule_rule (s : State) (r : Byte) (t : RuleTable) : (s.writeRule r t).rule = r := rfl
@[simp] theorem writeRule_ruleValid (s : State) (r : Byte) (t : RuleTable) : (s.writeRule r t).ruleValid = true := rfl
@[simp] theorem writeRule_table (s : State) (r : Byte) (t : RuleTable) : (s.writeRule r t).table = t := rfl
@[simp] theorem writeRule_state (s : State) (r : Byte) (t : RuleTable) : (s.writeRule r t).state = s.state := rfl
@[simp] theorem writeRule_iterCnt (s : State) (r : Byte) (t : RuleTable) : (s.writeRule r t).iterCnt = s.iterCnt := rfl
@[simp] theorem writeRule_byteCnt (s : State) (r : Byte) (t : RuleTable) : (s.writeRule r t).byteCnt = s.byteCnt := rfl
@[simp] theorem writeRule_byteIdx (s : State) (r : Byte) (t : RuleTable) : (s.writeRule r t).byteIdx = s.byteIdx := rfl
@[simp] theorem writeRule_err (s : State) (r : Byte) (t : RuleTable) : (s.writeRule r t).err = s.err := rfl
@[simp] theorem writeRule_cause (s : State) (r : Byte) (t : RuleTable) : (s.writeRule r t).cause = s.cause := rfl
@[simp] theorem writeRule_out (s : State) (r : Byte) (t : RuleTable) : (s.writeRule r t).out = s.out := rfl
@[simp] theorem writeRule_rd (s : State) (r : Byte) (t : RuleTable) : (s.writeRule r t).rd = s.rd := rfl
@[simp] theorem writeRule_host (s : State) (r : Byte) (t : RuleTable) : (s.writeRule r t).host = s.host := rfl
@[simp] theorem writeRule_rstIn (s : State) (r : Byte) (t : RuleTable) : (s.writeRule r t).rstIn = s.rstIn := rfl

@[simp] theorem writeReg_cfg (s : State) (v : Word) : (s.writeReg v).cfg = s.cfg := rfl
@[simp] theorem writeReg_rule (s : State) (v : Word) : (s.writeReg v).rule = s.rule := rfl
@[simp] theorem writeReg_ruleValid (s : State) (v : Word) : (s.writeReg v).ruleValid = s.ruleValid := rfl
@[simp] theorem writeReg_table (s : State) (v : Word) : (s.writeReg v).table = s.table := rfl
@[simp] theorem writeReg_state (s : State) (v : Word) : (s.writeReg v).state = v := rfl
@[simp] theorem writeReg_iterCnt (s : State) (v : Word) : (s.writeReg v).iterCnt = s.iterCnt := rfl
@[simp] theorem writeReg_byteCnt (s : State) (v : Word) : (s.writeReg v).byteCnt = s.byteCnt := rfl
@[simp] theorem writeReg_byteIdx (s : State) (v : Word) : (s.writeReg v).byteIdx = s.byteIdx := rfl
@[simp] theorem writeReg_err (s : State) (v : Word) : (s.writeReg v).err = s.err := rfl
@[simp] theorem writeReg_cause (s : State) (v : Word) : (s.writeReg v).cause = s.cause := rfl
@[simp] theorem writeReg_out (s : State) (v : Word) : (s.writeReg v).out = s.out := rfl
@[simp] theorem writeReg_rd (s : State) (v : Word) : (s.writeReg v).rd = s.rd := rfl
@[simp] theorem writeReg_host (s : State) (v : Word) : (s.writeReg v).host = s.host := rfl
@[simp] theorem writeReg_rstIn (s : State) (v : Word) : (s.writeReg v).rstIn = s.rstIn := rfl

@[simp] theorem writeIterCnt_cfg (s : State) (n : Nat) : (s.writeIterCnt n).cfg = s.cfg := rfl
@[simp] theorem writeIterCnt_rule (s : State) (n : Nat) : (s.writeIterCnt n).rule = s.rule := rfl
@[simp] theorem writeIterCnt_ruleValid (s : State) (n : Nat) : (s.writeIterCnt n).ruleValid = s.ruleValid := rfl
@[simp] theorem writeIterCnt_table (s : State) (n : Nat) : (s.writeIterCnt n).table = s.table := rfl
@[simp] theorem writeIterCnt_state (s : State) (n : Nat) : (s.writeIterCnt n).state = s.state := rfl
@[simp] theorem writeIterCnt_iterCnt (s : State) (n : Nat) : (s.writeIterCnt n).iterCnt = n := rfl
@[simp] theorem writeIterCnt_byteCnt (s : State) (n : Nat) : (s.writeIterCnt n).byteCnt = s.byteCnt := rfl
@[simp] theorem writeIterCnt_byteIdx (s : State) (n : Nat) : (s.writeIterCnt n).byteIdx = s.byteIdx := rfl
@[simp] theorem writeIterCnt_err (s : State) (n : Nat) : (s.writeIterCnt n).err = s.err := rfl
@[simp] theorem writeIterCnt_cause (s : State) (n : Nat) : (s.writeIterCnt n).cause = s.cause := rfl
@[simp] theorem writeIterCnt_out (s : State) (n : Nat) : (s.writeIterCnt n).out = s.out := rfl
@[simp] theorem writeIterCnt_rd (s : State) (n : Nat) : (s.writeIterCnt n).rd = s.rd := rfl
@[simp] theorem writeIterCnt_host (s : State) (n : Nat) : (s.writeIterCnt n).host = s.host := rfl
@[simp] theorem writeIterCnt_rstIn (s : State) (n : Nat) : (s.writeIterCnt n).rstIn = s.rstIn := rfl

@[simp] theorem writeByteCnt_cfg (s : State) (n : Nat) : (s.writeByteCnt n).cfg = s.cfg := rfl
@[simp] theorem writeByteCnt_rule (s : State) (n : Nat) : (s.writeByteCnt n).rule = s.rule := rfl
@[simp] theorem writeByteCnt_ruleValid (s : State) (n : Nat) : (s.writeByteCnt n).ruleValid = s.ruleValid := rfl
@[simp] theorem writeByteCnt_table (s : State) (n : Nat) : (s.writeByteCnt n).table = s.table := rfl
@[simp] theorem writeByteCnt_state (s : State) (n : Nat) : (s.writeByteCnt n).state = s.state := rfl
@[simp] theorem writeByteCnt_iterCnt (s : State) (n : Nat) : (s.writeByteCnt n).iterCnt = s.iterCnt := rfl
@[simp] theorem writeByteCnt_byteCnt (s : State) (n : Nat) : (s.writeByteCnt n).byteCnt = n := rfl
@[simp] theorem writeByteCnt_byteIdx (s : State) (n : Nat) : (s.writeByteCnt n).byteIdx = s.byteIdx := rfl
@[simp] theorem writeByteCnt_err (s : State) (n : Nat) : (s.writeByteCnt n).err = s.err := rfl
@[simp] theorem writeByteCnt_cause (s : State) (n : Nat) : (s.writeByteCnt n).cause = s.cause := rfl
@[simp] theorem writeByteCnt_out (s : State) (n : Nat) : (s.writeByteCnt n).out = s.out := rfl
@[simp] theorem writeByteCnt_rd (s : State) (n : Nat) : (s.writeByteCnt n).rd = s.rd := rfl
@[simp] theorem writeByteCnt_host (s : State) (n : Nat) : (s.writeByteCnt n).host = s.host := rfl
@[simp] theorem writeByteCnt_rstIn (s : State) (n : Nat) : (s.writeByteCnt n).rstIn = s.rstIn := rfl

@[simp] theorem restartLane_cfg (s : State) : (s.restartLane).cfg = s.cfg := rfl
@[simp] theorem restartLane_rule (s : State) : (s.restartLane).rule = s.rule := rfl
@[simp] theorem restartLane_ruleValid (s : State) : (s.restartLane).ruleValid = s.ruleValid := rfl
@[simp] theorem restartLane_table (s : State) : (s.restartLane).table = s.table := rfl
@[simp] theorem restartLane_state (s : State) : (s.restartLane).state = s.state := rfl
@[simp] theorem restartLane_iterCnt (s : State) : (s.restartLane).iterCnt = s.iterCnt := rfl
@[simp] theorem restartLane_byteCnt (s : State) : (s.restartLane).byteCnt = s.byteCnt := rfl
@[simp] theorem restartLane_byteIdx (s : State) : (s.restartLane).byteIdx = 0#2 := rfl
@[simp] theorem restartLane_err (s : State) : (s.restartLane).err = s.err := rfl
@[simp] theorem restartLane_cause (s : State) : (s.restartLane).cause = s.cause := rfl
@[simp] theorem restartLane_out (s : State) : (s.restartLane).out = s.out := rfl
@[simp] theorem restartLane_rd (s : State) : (s.restartLane).rd = s.rd := rfl
@[simp] theorem restartLane_host (s : State) : (s.restartLane).host = s.host := rfl
@[simp] theorem restartLane_rstIn (s : State) : (s.restartLane).rstIn = s.rstIn := rfl

@[simp] theorem emitLane_cfg (s : State) : (s.emitLane).cfg = s.cfg := rfl
@[simp] theorem emitLane_rule (s : State) : (s.emitLane).rule = s.rule := rfl
@[simp] theorem emitLane_ruleValid (s : State) : (s.emitLane).ruleValid = s.ruleValid := rfl
@[simp] theorem emitLane_table (s : State) : (s.emitLane).table = s.table := rfl
@[simp] theorem emitLane_state (s : State) : (s.emitLane).state = s.state := rfl
@[simp] theorem emitLane_iterCnt (s : State) : (s.emitLane).iterCnt = s.iterCnt := rfl
@[simp] theorem emitLane_byteCnt (s : State) : (s.emitLane).byteCnt = s.byteCnt := rfl
@[simp] theorem emitLane_byteIdx (s : State) : (s.emitLane).byteIdx = s.byteIdx + 1#2 := rfl
@[simp] theorem emitLane_err (s : State) : (s.emitLane).err = s.err := rfl
@[simp] theorem emitLane_cause (s : State) : (s.emitLane).cause = s.cause := rfl
@[simp] theorem emitLane_out (s : State) : (s.emitLane).out = s.out ++ [s.laneByte] := rfl
@[simp] theorem emitLane_rd (s : State) : (s.emitLane).rd = s.rd := rfl
@[simp] theorem emitLane_host (s : State) : (s.emitLane).host = s.host := rfl
@[simp] theorem emitLane_rstIn (s : State) : (s.emitLane).rstIn = s.rstIn := rfl

@[simp] theorem respond_cfg (s : State) (w : Word) : (s.respond w).cfg = s.cfg := rfl
@[simp] theorem respond_rule (s : State) (w : Word) : (s.respond w).rule = s.rule := rfl
@[simp] theorem respond_ruleValid (s : State) (w : Word) : (s.respond w).ruleValid = s.ruleValid := rfl
@[simp] theorem respond_table (s : State) (w : Word) : (s.respond w).table = s.table := rfl
@[simp] theorem respond_state (s : State) (w : Word) : (s.respond w).state = s.state := rfl
@[simp] theorem respond_iterCnt (s : State) (w : Word) : (s.respond w).iterCnt = s.iterCnt := rfl
@[simp] theorem respond_byteCnt (s : State) (w : Word) : (s.respond w).byteCnt = s.byteCnt := rfl
@[simp] theorem respond_byteIdx (s : State) (w : Word) : (s.respond w).byteIdx = s.byteIdx := rfl
@[simp] theorem respond_err (s : State) (w : Word) : (s.respond w).err = s.err := rfl
@[simp] theorem respond_cause (s : State) (w : Word) : (s.respond w).cause = s.cause := rfl
@[simp] theorem respond_out (s : State) (w : Word) : (s.respond w).out = s.out := rfl
@[simp] theorem respond_rd (s : State) (w : Word) : (s.respond w).rd = s.rd ++ [w] := rfl
@[simp] theorem respond_host (s : State) (w : Word) : (s.respond w).host = s.host := rfl
@[simp] theorem respond_rstIn (s : State) (w : Word) : (s.respond w).rstIn = s.rstIn := rfl

@[simp] theorem raise_cfg (s : State) (k : Cause) : (s.raise k).cfg = s.cfg := rfl
@[simp] theorem raise_rule (s : State) (k : Cause) : (s.raise k).rule = s.rule := rfl
@[simp] theorem raise_ruleValid (s : State) (k : Cause) : (s.raise k).ruleValid = s.ruleValid := rfl
@[simp] theorem raise_table (s : State) (k : Cause) : (s.raise k).table = s.table := rfl
@[simp] theorem raise_state (s : State) (k : Cause) : (s.raise k).state = s.state := rfl
@[simp] theorem raise_iterCnt (s : State) (k : Cause) : (s.raise k).iterCnt = s.iterCnt := rfl
@[simp] theorem raise_byteCnt (s : State) (k : Cause) : (s.raise k).byteCnt = s.byteCnt := rfl
@[simp] theorem raise_byteIdx (s : State) (k : Cause) : (s.raise k).byteIdx = s.byteIdx := rfl
@[simp] theorem raise_err (s : State) (k : Cause) : (s.raise k).err = true := rfl
@[simp] theorem raise_cause (s : State) (k : Cause) : (s.raise k).cause = k := rfl
@[simp] theorem raise_out (s : State) (k : Cause) : (s.raise k).out = s.out := rfl
@[simp] theorem raise_rd (s : State) (k : Cause) : (s.raise k).rd = s.rd := rfl
@[simp] theorem raise_host (s : State) (k : Cause) : (s.raise k).host = s.host := rfl
@[simp] theorem raise_rstIn (s : State) (k : Cause) : (s.raise k).rstIn = s.rstIn := rfl

@[simp] theorem consume_cfg (s : State) : (s.consume).cfg = s.cfg := rfl
@[simp] theorem consume_rule (s : State) : (s.consume).rule = s.rule := rfl
@[simp] theorem consume_ruleValid (s : State) : (s.consume).ruleValid = s.ruleValid := rfl
@[simp] theorem consume_table (s : State) : (s.consume).table = s.table := rfl
@[simp] theorem consume_state (s : State) : (s.consume).state = s.state := rfl
@[simp] theorem consume_iterCnt (s : State) : (s.consume).iterCnt = s.iterCnt := rfl
@[simp] theorem consume_byteCnt (s : State) : (s.consume).byteCnt = s.byteCnt := rfl
@[simp] theorem consume_byteIdx (s : State) : (s.consume).byteIdx = s.byteIdx := rfl
@[simp] theorem consume_err (s : State) : (s.consume).err = s.err := rfl
@[simp] theorem consume_cause (s : State) : (s.consume).cause = s.cause := rfl
@[simp] theorem consume_out (s : State) : (s.consume).out = s.out := rfl
@[simp] theorem consume_rd (s : State) : (s.consume).rd = s.rd := rfl
@[simp] theorem consume_host (s : State) : (s.consume).host = s.host.tail := rfl
@[simp] theorem consume_rstIn (s : State) : (s.consume).rstIn = s.rstIn.tail := rfl

@[simp] theorem elapse_cfg (s : State) : (s.elapse).cfg = s.cfg := rfl
@[simp] theorem elapse_rule (s : State) : (s.elapse).rule = s.rule := rfl
@[simp] theorem elapse_ruleValid (s : State) : (s.elapse).ruleValid = s.ruleValid := rfl
@[simp] theorem elapse_table (s : State) : (s.elapse).table = s.table := rfl
@[simp] theorem elapse_state (s : State) : (s.elapse).state = s.state := rfl
@[simp] theorem elapse_iterCnt (s : State) : (s.elapse).iterCnt = s.iterCnt := rfl
@[simp] theorem elapse_byteCnt (s : State) : (s.elapse).byteCnt = s.byteCnt := rfl
@[simp] theorem elapse_byteIdx (s : State) : (s.elapse).byteIdx = s.byteIdx := rfl
@[simp] theorem elapse_err (s : State) : (s.elapse).err = s.err := rfl
@[simp] theorem elapse_cause (s : State) : (s.elapse).cause = s.cause := rfl
@[simp] theorem elapse_out (s : State) : (s.elapse).out = s.out := rfl
@[simp] theorem elapse_rd (s : State) : (s.elapse).rd = s.rd := rfl
@[simp] theorem elapse_host (s : State) : (s.elapse).host = afterIdle s.host := rfl
@[simp] theorem elapse_rstIn (s : State) : (s.elapse).rstIn = s.rstIn.tail := rfl

@[simp] theorem resetEvent_cfg (s : State) : (s.resetEvent).cfg = s.cfg := rfl
@[simp] theorem resetEvent_rule (s : State) : (s.resetEvent).rule = 0x00#8 := rfl
@[simp] theorem resetEvent_ruleValid (s : State) : (s.resetEvent).ruleValid = false := rfl
@[simp] theorem resetEvent_table (s : State) : (s.resetEvent).table = State.reset.table := rfl
@[simp] theorem resetEvent_state (s : State) : (s.resetEvent).state = 0x00000001#32 := rfl
@[simp] theorem resetEvent_iterCnt (s : State) : (s.resetEvent).iterCnt = 0 := rfl
@[simp] theorem resetEvent_byteCnt (s : State) : (s.resetEvent).byteCnt = 0 := rfl
@[simp] theorem resetEvent_byteIdx (s : State) : (s.resetEvent).byteIdx = 0#2 := rfl
@[simp] theorem resetEvent_err (s : State) : (s.resetEvent).err = false := rfl
@[simp] theorem resetEvent_cause (s : State) : (s.resetEvent).cause = .none := rfl
@[simp] theorem resetEvent_out (s : State) : (s.resetEvent).out = s.out := rfl
@[simp] theorem resetEvent_rd (s : State) : (s.resetEvent).rd = s.rd := rfl
@[simp] theorem resetEvent_host (s : State) : (s.resetEvent).host = s.host := rfl
@[simp] theorem resetEvent_rstIn (s : State) : (s.resetEvent).rstIn = s.rstIn := rfl

end Sys2Proof.Machine
end

