-- ==== Sys2Proof/Laws/Ops.lean ====
section
/-! SUPPORT. What each shared operation can do, said once. -/

namespace Sys2Proof.Machine

theorem busy_eq_false_iff (s : State) : s.busy = false ↔ s.iterCnt = 0 ∧ s.byteCnt = 0 := by
  simp [State.busy]

theorem busy_eq_true_iff (s : State) : s.busy = true ↔ s.iterCnt ≠ 0 ∨ s.byteCnt ≠ 0 := by
  by_cases h : s.iterCnt = 0 <;> simp [State.busy, h]

/-- `BUSY` reads the two counters only. -/
theorem busy_congr {s t : State} (hi : t.iterCnt = s.iterCnt) (hb : t.byteCnt = s.byteCnt) : t.busy = s.busy := by
  simp [State.busy, hi, hb]

theorem unlessErr_of_err {s : State} (h : s.err = true) (p : Result) : unlessErr s p = .next s := by
  simp [unlessErr, h]

theorem unlessErr_of_ok {s : State} (h : s.err = false) (p : Result) : unlessErr s p = p := by
  simp [unlessErr, h]

/-- A command that is discarded while `ERR = 1` either leaves the state or is performed on an unfaulted block. -/
theorem unlessErr_next {s t : State} {p : Result} (h : unlessErr s p = .next t) :
    (s.err = true ∧ t = s) ∨ (s.err = false ∧ p = .next t) := by
  cases he : s.err with
  | true => exact .inl ⟨rfl, by simpa [unlessErr, he] using h.symm⟩
  | false => exact .inr ⟨rfl, by simpa [unlessErr, he] using h⟩

theorem ruleOperand_of_lt {arg : Nat} (h : arg < 256) : ruleOperand arg = some (BitVec.ofNat 8 arg) := by
  simp [ruleOperand]; omega

theorem ruleOperand_of_ge {arg : Nat} (h : 256 ≤ arg) : ruleOperand arg = none := by
  simp [ruleOperand]; omega

theorem ruleOperand_cases (arg : Nat) :
    (256 ≤ arg ∧ ruleOperand arg = none) ∨ (arg < 256 ∧ ruleOperand arg = some (BitVec.ofNat 8 arg)) := by
  rcases Nat.lt_or_ge arg 256 with h | h
  · exact .inr ⟨h, ruleOperand_of_lt h⟩
  · exact .inl ⟨h, ruleOperand_of_ge h⟩

end Sys2Proof.Machine
end

