-- ==== Sys2Proof/Laws/Exec.lean ====
section
/-! SUPPORT. What an accepted command can do: one inversion lemma per meaning, and one for `exec`. -/

namespace Sys2Proof.Machine

/-- Everything a performed command can do (a discarded one leaves the state: the first case, R67). -/
inductive Performed (s : State) : Instr → State → Prop where
  | discarded (i : Instr) : s.err = true → i ≠ .nop ∧ i ≠ .rdstate ∧ i ≠ .rdrule → Performed s i s
  | nop : Performed s .nop s
  | ruleLoaded (arg : Nat) : s.err = false → arg < 256 →
      Performed s (.ldrule arg) (s.writeRule (BitVec.ofNat 8 arg) (buildRule (BitVec.ofNat 8 arg)))
  | argRange (arg : Nat) : s.err = false → 256 ≤ arg → Performed s (.ldrule arg) (s.raise .argRange)
  | initialised : s.err = false → Performed s .init (s.writeReg 0x00000001#32).restartLane
  | stepped : s.err = false → s.ruleValid = true →
      Performed s .step (s.writeReg (next s.table s.state)).restartLane
  | stepNoRule : s.err = false → s.ruleValid = false → Performed s .step (s.raise .noRule)
  | evolving (n : Nat) : s.err = false → s.ruleValid = true →
      Performed s (.evolve n) (s.writeIterCnt n).restartLane
  | evolveNoRule (n : Nat) : s.err = false → s.ruleValid = false → Performed s (.evolve n) (s.raise .noRule)
  | emitted : s.err = false → Performed s .emit s.emitLane
  | emitting (n : Nat) : s.err = false → Performed s (.emitn n) (s.writeByteCnt n)
  | stateRead : Performed s .rdstate (s.respond s.state)
  | ruleRead : Performed s .rdrule (s.respond s.ruleWord)

theorem execLdrule_next {arg : Nat} {s t : State} (h : execLdrule arg s = .next t) : Performed s (.ldrule arg) t := by
  obtain ⟨he, rfl⟩ | ⟨he, hp⟩ := unlessErr_next h
  · exact .discarded _ he (by simp)
  · obtain ⟨ha, hr⟩ | ⟨ha, hr⟩ := ruleOperand_cases arg <;> simp only [hr] at hp <;> cases hp
    · exact .argRange arg he ha
    · exact .ruleLoaded arg he ha

theorem execStep_next {s t : State} (h : execStep s = .next t) : Performed s .step t := by
  obtain ⟨he, rfl⟩ | ⟨he, hp⟩ := unlessErr_next h
  · exact .discarded _ he (by simp)
  · split at hp <;> rename_i hv <;> cases hp
    · exact .stepped he hv
    · exact .stepNoRule he (Bool.eq_false_of_not_eq_true hv)

theorem execEvolve_next {n : Nat} {s t : State} (h : execEvolve n s = .next t) : Performed s (.evolve n) t := by
  obtain ⟨he, rfl⟩ | ⟨he, hp⟩ := unlessErr_next h
  · exact .discarded _ he (by simp)
  · split at hp <;> rename_i hv <;> cases hp
    · exact .evolving n he hv
    · exact .evolveNoRule n he (Bool.eq_false_of_not_eq_true hv)

/-- The inversion lemma of `exec`: a next state is one of the cases of `Performed`. -/
theorem exec_next {i : Instr} {s t : State} (h : exec i s = .next t) : Performed s i t := by
  cases i with
  | nop => cases h; exact .nop
  | ldrule arg => exact execLdrule_next h
  | init =>
    obtain ⟨he, rfl⟩ | ⟨he, hp⟩ := unlessErr_next h
    · exact .discarded _ he (by simp)
    · cases hp; exact .initialised he
  | step => exact execStep_next h
  | evolve n => exact execEvolve_next h
  | emit =>
    obtain ⟨he, rfl⟩ | ⟨he, hp⟩ := unlessErr_next h
    · exact .discarded _ he (by simp)
    · cases hp; exact .emitted he
  | emitn n =>
    obtain ⟨he, rfl⟩ | ⟨he, hp⟩ := unlessErr_next h
    · exact .discarded _ he (by simp)
    · cases hp; exact .emitting n he
  | rdstate => cases h; exact .stateRead
  | rdrule => cases h; exact .ruleRead

/-- Every command has a next state in every state: no meaning faults or refuses. -/
theorem exec_total (i : Instr) (s : State) : ∃ t, exec i s = .next t := by
  cases i <;> cases he : s.err <;> cases hv : s.ruleValid <;>
    simp only [exec, execNop, execLdrule, execInit, execStep, execEvolve, execEmit, execEmitn, execRdstate, execRdrule,
      unlessErr, he, hv] <;> first
    | exact ⟨_, rfl⟩
    | (obtain ⟨-, hr⟩ | ⟨-, hr⟩ := ruleOperand_cases ‹Nat› <;> simp [hr])

theorem acceptIllegal_next {s t : State} (h : acceptIllegal s = .next t) :
    (s.err = true ∧ t = s) ∨ (s.err = false ∧ t = s.raise .illegalCmd) := by
  obtain ⟨he, rfl⟩ | ⟨he, hp⟩ := unlessErr_next h
  · exact .inl ⟨he, rfl⟩
  · cases hp; exact .inr ⟨he, rfl⟩

end Sys2Proof.Machine
end

