-- ==== Sys2Proof/Laws/PerInstr.lean ====
section
/-! SUPPORT. Per-instruction facts about the commands as syntax: a command whose operand the bus can carry is written as a
transaction the bus can carry (00_scope.md R3, 30_encoding.md R39). -/

namespace Sys2Proof.Laws.EncodeFits

/-- A well-formed command encodes to a transaction that fits the bus, whatever its width. -/
def Statement (i : Instr) : Prop := ∀ cfg : Config, i.wf cfg = true → (encode i).fits cfg = true

/-- The operand 0 of a command without one fits every bus. -/
theorem zero_fits (cfg : Config) (b : Byte) : (⟨b, 0⟩ : Command).fits cfg = true :=
  decide_eq_true (Nat.two_pow_pos cfg.argWidth)

theorem nop : Statement .nop := fun cfg _ => zero_fits cfg _
theorem ldrule (arg : Nat) : Statement (.ldrule arg) := fun _ h => h
theorem init : Statement .init := fun cfg _ => zero_fits cfg _
theorem step : Statement .step := fun cfg _ => zero_fits cfg _
theorem evolve (n : Nat) : Statement (.evolve n) := fun _ h => h
theorem emit : Statement .emit := fun cfg _ => zero_fits cfg _
theorem emitn (n : Nat) : Statement (.emitn n) := fun _ h => h
theorem rdstate : Statement .rdstate := fun cfg _ => zero_fits cfg _
theorem rdrule : Statement .rdrule := fun cfg _ => zero_fits cfg _

end Sys2Proof.Laws.EncodeFits
end

