-- ==== Sys2Proof/Laws/Step.lean ====
section
/-! SUPPORT. What a step of the machine can do, and runs of several steps. -/

namespace Sys2Proof.Machine

/-- The engine's step in each of its two forms (10_state.md R20). -/
theorem engineStep_of_iter {s : State} (h : s.iterCnt ≠ 0) : s.engineStep = s.evolutionStep := by
  simp [State.engineStep, h]

theorem engineStep_of_no_iter {s : State} (h : s.iterCnt = 0) : s.engineStep = s.emissionStep := by
  simp [State.engineStep, h]

/-- Everything a step can do: reset, an engine step, the acceptance of a command or of an illegal code, or idling. -/
inductive Stepped (s : State) : State → Prop where
  | reset : s.rst = true → Stepped s s.elapse.resetEvent
  | engine : s.rst = false → s.busy = true → Stepped s s.elapse.engineStep
  | performed (c : Command) (rest : List HostEvent) (i : Instr) (t : State) : s.rst = false → s.busy = false →
      s.host = .offer c :: rest → c.fits s.cfg = true → decode c = .ok i → exec i s.consume = .next t → Stepped s t
  | illegal (c : Command) (rest : List HostEvent) (e : DecodeError) (t : State) : s.rst = false → s.busy = false →
      s.host = .offer c :: rest → c.fits s.cfg = true → decode c = .error e → acceptIllegal s.consume = .next t →
      Stepped s t
  | idle : s.rst = false → s.busy = false → s.cmdValid = false → Stepped s s.elapse

/-- The host offers a command or it does not. -/
theorem cmdPort_cases (s : State) : (∃ c rest, s.host = .offer c :: rest ∧ s.cmdValid = true) ∨ s.cmdValid = false := by
  match h : s.host with
  | .offer c :: rest => exact .inl ⟨c, rest, rfl, by simp [State.cmdValid, State.cmdPort, h]⟩
  | .idle :: rest => exact .inr (by simp [State.cmdValid, State.cmdPort, h])
  | [] => exact .inr (by simp [State.cmdValid, State.cmdPort, h])

/-- With nothing offered the script loses its idle step, if it has one left. -/
theorem afterIdle_of_no_offer {s : State} (h : s.cmdValid = false) : afterIdle s.host = s.host.tail := by
  match hh : s.host with
  | .offer c :: rest => simp [State.cmdValid, State.cmdPort, hh] at h
  | .idle :: rest => rfl
  | [] => rfl

/-- A step that accepts nothing adds nothing to the script. -/
theorem afterIdle_subset (l : List HostEvent) : ∀ e ∈ afterIdle l, e ∈ l := by
  match l with
  | .offer c :: rest => exact fun _ h => h
  | .idle :: rest => exact fun _ h => List.mem_cons_of_mem _ h
  | [] => exact fun _ h => h

/-- An accepted offer is a transaction of the bus: a command that is performed, or an illegal code. -/
theorem acceptOffer_next {c : Command} {s t : State} (h : acceptOffer c s = .next t) :
    c.fits s.cfg = true ∧ ((∃ i, decode c = .ok i ∧ exec i s = .next t) ∨
      (∃ e, decode c = .error e ∧ acceptIllegal s = .next t)) := by
  unfold acceptOffer at h
  cases hf : c.fits s.cfg with
  | false => rw [hf] at h; cases h
  | true =>
    rw [hf, if_pos rfl] at h
    cases hd : decode c with
    | ok i => rw [hd] at h; exact ⟨rfl, .inl ⟨i, rfl, h⟩⟩
    | error e => rw [hd] at h; exact ⟨rfl, .inr ⟨e, rfl, h⟩⟩

/-- Reset dominates, whatever is in progress or offered. -/
theorem step_of_reset {s : State} (hr : s.rst = true) : step s = .next s.elapse.resetEvent := by
  simp [step, advance, hr]

/-- While the block is busy and no reset is asserted the step is the engine's, whatever the host offers. -/
theorem step_of_busy {s : State} (hr : s.rst = false) (hb : s.busy = true) : step s = .next s.elapse.engineStep := by
  simp [step, advance, hr, hb]

/-- An idle block with nothing offered waits. -/
theorem step_of_idle {s : State} (hr : s.rst = false) (hb : s.busy = false) (hv : s.cmdValid = false) :
    step s = .next s.elapse := by
  match hh : s.host with
  | .offer c :: rest => simp [State.cmdValid, State.cmdPort, hh] at hv
  | .idle :: rest => simp [step, advance, hr, hb, hh]
  | [] => simp [step, advance, hr, hb, hh]

/-- An idle block takes what is offered. -/
theorem step_of_accept {s : State} {c : Command} {rest : List HostEvent} (hr : s.rst = false) (hb : s.busy = false)
    (hh : s.host = .offer c :: rest) : step s = acceptOffer c s.consume := by
  simp [step, advance, hr, hb, hh]

/-- An idle block performs an offered command that decodes. -/
theorem step_of_offer {s : State} {c : Command} {rest : List HostEvent} {i : Instr} (hr : s.rst = false)
    (hb : s.busy = false) (hh : s.host = .offer c :: rest) (hf : c.fits s.cfg = true) (hd : decode c = .ok i) :
    step s = exec i s.consume := by
  simp [step_of_accept hr hb hh, acceptOffer, hf, hd]

/-- An idle block accepts an offered code that is no command. -/
theorem step_of_illegal {s : State} {c : Command} {rest : List HostEvent} {e : DecodeError} (hr : s.rst = false)
    (hb : s.busy = false) (hh : s.host = .offer c :: rest) (hf : c.fits s.cfg = true) (hd : decode c = .error e) :
    step s = acceptIllegal s.consume := by
  simp [step_of_accept hr hb hh, acceptOffer, hf, hd]

/-- An offer the bus cannot carry is refused by an idle block. -/
theorem step_of_wide {s : State} {c : Command} {rest : List HostEvent} (hr : s.rst = false) (hb : s.busy = false)
    (hh : s.host = .offer c :: rest) (hf : c.fits s.cfg = false) : step s = .refused .operandWiderThanBus := by
  simp [step_of_accept hr hb hh, acceptOffer, hf]

/-- The inversion lemma of `step`. -/
theorem step_next {s t : State} (h : step s = .next t) : Stepped s t := by
  cases hr : s.rst with
  | true => rw [step_of_reset hr] at h; cases h; exact .reset hr
  | false =>
    cases hb : s.busy with
    | true => rw [step_of_busy hr hb] at h; cases h; exact .engine hr hb
    | false =>
      obtain ⟨c, rest, hh, -⟩ | hv := cmdPort_cases s
      · rw [step_of_accept hr hb hh] at h
        obtain ⟨hf, ⟨i, hd, he⟩ | ⟨e, hd, he⟩⟩ := acceptOffer_next h
        · exact .performed c rest i t hr hb hh hf hd he
        · exact .illegal c rest e t hr hb hh hf hd he
      · rw [step_of_idle hr hb hv] at h; cases h; exact .idle hr hb hv

/-- No reset in the next `k + 1` steps: none in this one, and none in the `k` after it. -/
theorem noResetFor_succ {s : State} {k : Nat} (h : s.noResetFor (k + 1) = true) :
    s.rst = false ∧ ∀ t : State, t.rstIn = s.rstIn.tail → t.noResetFor k = true := by
  simp only [State.noResetFor, State.rst] at *
  cases hs : s.rstIn with
  | nil => exact ⟨rfl, fun t ht => by simp [ht]⟩
  | cons level later =>
    rw [hs, List.take_succ_cons, List.all_cons, Bool.and_eq_true] at h
    exact ⟨by simpa using h.1, fun t ht => by rw [ht]; exact h.2⟩

/-- Fewer steps without a reset. -/
theorem noResetFor_mono {s : State} {j k : Nat} (hjk : j ≤ k) (h : s.noResetFor k = true) : s.noResetFor j = true := by
  simp only [State.noResetFor, List.all_eq_true] at *
  exact fun level hl => h level (List.take_subset_take_left s.rstIn hjk hl)

/-- No reset in `j + k` steps: none in the `k` steps that come after `j` of them. -/
theorem noResetFor_drop {s t : State} {j k : Nat} (h : s.noResetFor (j + k) = true) (ht : t.rstIn = s.rstIn.drop j) :
    t.noResetFor k = true := by
  simp only [State.noResetFor, List.all_eq_true, ht, List.take_drop] at *
  exact fun level hl => h level (List.mem_of_mem_drop hl)

/-- A host that offers commands one after another holds the next in a step that accepts nothing. -/
@[simp] theorem afterIdle_script (commands : List Instr) : afterIdle (script commands) = script commands := by
  cases commands <;> rfl

theorem runFor_zero (s : State) : runFor 0 s = .next s := rfl

theorem runFor_succ (k : Nat) {s t : State} (h : step s = .next t) : runFor (k + 1) s = runFor k t := by
  simp [runFor, h]

theorem runFor_one {s t : State} (h : step s = .next t) : runFor 1 s = .next t := by
  rw [runFor_succ 0 h, runFor_zero]

/-- A run that has a next state took a first step that has one. -/
theorem runFor_succ_next {s t : State} {k : Nat} (h : runFor (k + 1) s = .next t) :
    ∃ u, step s = .next u ∧ runFor k u = .next t := by
  rw [runFor] at h
  cases hs : step s with
  | next u => rw [hs] at h; exact ⟨u, rfl, h⟩
  | fault f => rw [hs] at h; cases h
  | refused r => rw [hs] at h; cases h

/-- A run of `j + k` steps is a run of `j` and then a run of `k`. -/
theorem runFor_add {s t : State} (j k : Nat) (h : runFor j s = .next t) : runFor (j + k) s = runFor k t := by
  induction j generalizing s with
  | zero => cases h; rw [Nat.zero_add]
  | succ j ih =>
    obtain ⟨u, hu, hr⟩ := runFor_succ_next h
    rw [show j + 1 + k = (j + k) + 1 by omega, runFor_succ _ hu]
    exact ih hr

/-- `runFor` is the run of the host's interface. -/
theorem runFor_eq_core_run (k : Nat) (s : State) : runFor k s = Sys2Proof.core.run k s := by
  induction k generalizing s with
  | zero => rfl
  | succ k ih =>
    have hs : Sys2Proof.core.step s = step s := rfl
    cases h : step s with
    | next t => rw [runFor_succ k h, ih]; rw [h] at hs; simp only [Host.Core.run, hs]; rfl
    | fault f => rw [runFor, h]; rw [h] at hs; simp only [Host.Core.run, hs]; rfl
    | refused r => rw [runFor, h]; rw [h] at hs; simp only [Host.Core.run, hs]; rfl

end Sys2Proof.Machine
end

