-- ==== Sys2Proof/Tests/Slice0.lean ====
section
/-! SUPPORT. Tests: expected values are from spec/95_test_vectors.md, spec/30_encoding.md and the examples of the command
rules, or worked by hand from the rules. Then one witness for each statement's hypotheses. -/

namespace Sys2Proof.Tests

open Sys2Proof.Machine

/-- The next state of an outcome. -/
def nextOf : Result → Option State
  | .next s => some s
  | .fault _ => none
  | .refused _ => none

/-- A block with rule 110 loaded, the register `D0B95FAF` (95 section 2.3) and lane 3. -/
def sample : State :=
  { State.reset with rule := 0x6E#8, table := buildRule 0x6E#8, ruleValid := true, state := 0xD0B95FAF#32, byteIdx := 3#2 }

/-- A block that has faulted with `NO_RULE` (95 P4). -/
def faulted : State := { State.reset with err := true, cause := .noRule }

/-- The smallest bus, 8 bits. -/
def narrow : Config := ⟨8⟩

/-! ## Well-formedness: an ill-formed term for each check -/

theorem test_wf_refuses_wide_ldrule : (Instr.ldrule 256).wf narrow = false ∧ (Instr.ldrule 255).wf narrow = true := by decide
theorem test_wf_refuses_wide_evolve : (Instr.evolve 256).wf narrow = false ∧ (Instr.evolve 255).wf narrow = true := by decide
theorem test_wf_refuses_wide_emitn : (Instr.emitn 256).wf narrow = false ∧ (Instr.emitn 255).wf narrow = true := by decide
theorem test_fits_refuses_wide_arg :
    Command.fits narrow ⟨0x04#8, 256⟩ = false ∧ Command.fits narrow ⟨0x04#8, 255⟩ = true := by decide
theorem test_config_refuses_seven_bits : ¬ (⟨7⟩ : Config).valid ∧ narrow.valid := by decide

/-! ## Decoding: each code written out bit by bit from 30_encoding.md R35 -/

theorem test_decode_nop : decode ⟨0b00000000#8, 7⟩ = .ok .nop := rfl
theorem test_decode_ldrule : decode ⟨0b00000001#8, 0x6E⟩ = .ok (.ldrule 110) := rfl
theorem test_decode_init : decode ⟨0b00000010#8, 9⟩ = .ok .init := rfl
theorem test_decode_step : decode ⟨0b00000011#8, 1⟩ = .ok .step := rfl
theorem test_decode_evolve : decode ⟨0b00000100#8, 0x400⟩ = .ok (.evolve 1024) := rfl
theorem test_decode_emit : decode ⟨0b00000101#8, 0⟩ = .ok .emit := rfl
theorem test_decode_emitn : decode ⟨0b00000110#8, 5⟩ = .ok (.emitn 5) := rfl
theorem test_decode_rdstate : decode ⟨0b00000111#8, 0⟩ = .ok .rdstate := rfl
theorem test_decode_rdrule : decode ⟨0b00001000#8, 0⟩ = .ok .rdrule := rfl
theorem test_decode_illegal_ends :
    decode ⟨0b00001001#8, 0⟩ = .error (.illegal 0x09#8) ∧ decode ⟨0b11111111#8, 0⟩ = .error (.illegal 0xFF#8) := ⟨rfl, rfl⟩
theorem test_encode_p2 : (expandGenerate 5 30 100).map encode =
    [⟨0x01#8, 0x1E⟩, ⟨0x02#8, 0⟩, ⟨0x04#8, 0x64⟩, ⟨0x06#8, 5⟩] := by decide

/-! ## The datapath (95 section 2) -/

theorem test_rotr8_wraps : rotr8 0b00000001#8 1 = 0b10000000#8 := by decide
theorem test_rotl32_wraps : rotl32 0x80000001#32 1 = 0x00000003#32 := by decide
theorem test_rotr32_wraps : rotr32 0x80000001#32 1 = 0xC0000000#32 := by decide
theorem test_build_rule_110 : buildRule 110#8 = #v[false, true, true, true, false, true, true, false] := by decide
theorem test_build_rule_128 : buildRule 128#8 = #v[false, false, false, false, false, false, false, true] := by decide
theorem test_next_30_wraps : next (buildRule 30#8) 0x80000000#32 = 0xC0000001#32 := by decide
theorem test_next_30_value : next (buildRule 30#8) 0x12345678#32 = 0x3F66D5C4#32 := by decide
theorem test_next_110_value : next (buildRule 110#8) 0xDEADBEEF#32 = 0x73FFE3B8#32 := by decide
theorem test_next_184_moves_right : next (buildRule 184#8) 0x00000001#32 = 0x80000000#32 := by decide
theorem test_evolve_110_2 : evolve 110#8 2 = 0x00000007#32 := by decide
theorem test_keystream_5 : keystream 5 0xD0B95FAF#32 = [0xAF#8, 0x5F#8, 0xB9#8, 0xD0#8, 0xAF#8] := by decide
theorem test_generate_7 : generate 7 110#8 0 = [0x01#8, 0#8, 0#8, 0#8, 0x01#8, 0#8, 0#8] := by decide

/-! ## Commands, one step each (95 sections 2.1 to 2.4) -/

theorem test_nop_while_faulted : nextOf (exec .nop faulted) = some faulted := by decide
theorem test_ldrule_30 : (nextOf (exec (.ldrule 30) State.reset)).map
    (fun t => (t.rule, t.ruleValid, t.table[4]?, t.table[5]?)) = some (0x1E#8, true, some true, some false) := by decide
theorem test_ldrule_256_faults : (nextOf (exec (.ldrule 0x100) State.reset)).map
    (fun t => (t.err, t.cause, t.rule, t.status)) = some (true, .argRange, 0x00#8, 0x0A#8) := by decide
theorem test_init : (nextOf (exec .init sample)).map (fun t => (t.state, t.byteIdx)) = some (0x00000001#32, 0#2) := by decide
theorem test_step_no_rule : (nextOf (exec .step State.reset)).map (fun t => (t.cause, t.state, t.status)) =
    some (.noRule, 0x00000001#32, 0x0E#8) := by decide
theorem test_step_v3 : (nextOf (exec .step { sample with state := 0x00000001#32 })).map
    (fun t => (t.state, t.byteIdx)) = some (0x00000003#32, 0#2) := by decide
theorem test_evolve_0_no_rule : (nextOf (exec (.evolve 0) State.reset)).map (fun t => t.cause) = some .noRule := by decide
theorem test_evolve_loads : (nextOf (exec (.evolve 4) sample)).map
    (fun t => (t.iterCnt, t.byteIdx, t.busy, t.state)) = some (4, 0#2, true, 0xD0B95FAF#32) := by decide
theorem test_emit_lane_3_wraps : (nextOf (exec .emit sample)).map (fun t => (t.out, t.byteIdx)) =
    some ([0xD0#8], 0#2) := by decide
theorem test_emitn_keeps_lane : (nextOf (exec (.emitn 5) sample)).map (fun t => (t.byteCnt, t.byteIdx, t.out)) =
    some (5, 3#2, []) := by decide
theorem test_rdstate_while_faulted : (nextOf (exec .rdstate faulted)).map (fun t => t.rd) = some [0x00000001#32] := by decide
theorem test_rdrule_30 : (nextOf (exec .rdrule { State.reset with rule := 0x1E#8, ruleValid := true })).map
    (fun t => t.rd) = some [0x0000011E#32] := by decide
theorem test_rdrule_at_reset : (nextOf (exec .rdrule State.reset)).map (fun t => t.rd) = some [0x00000000#32] := by decide

/-! ## The step -/

theorem test_illegal_faults : (nextOf (step { State.reset with host := [.offer ⟨0x09#8, 0⟩] })).map
    (fun t => (t.err, t.cause, t.status, t.host)) = some (true, .illegalCmd, 0x06#8, []) := by decide
theorem test_reset_stops_evolve : (nextOf (step { sample with iterCnt := 999990, rstIn := [true] })).map
    (fun t => (t.state, t.iterCnt, t.ruleValid)) = some (0x00000001#32, 0, false) := by decide
theorem test_engine_holds_offer : (nextOf (step { sample with byteCnt := 2, host := [.offer ⟨0x02#8, 0⟩] })).map
    (fun t => (t.out, t.byteCnt, t.host)) = some ([0xD0#8], 1, [.offer ⟨0x02#8, 0⟩]) := by decide
/-- A host that holds an offer while `BUSY = 1` and then asserts `rst` (70 R76, 10_state R22): the emission ends at once, the
offer is not accepted and still held, and is performed in the step after reset. -/
def heldThenReset : State := { sample with byteCnt := 9, host := [.offer ⟨0x07#8, 0⟩], rstIn := [false, true] }
theorem test_reset_while_offer_is_held :
    heldThenReset.cmdPort = some ⟨0x07#8, 0⟩ ∧ heldThenReset.cmdReady = false ∧ heldThenReset.rst = false ∧
    (nextOf (runFor 1 heldThenReset)).map (fun t => (t.out, t.byteCnt, t.cmdPort, t.rst)) =
      some ([0xD0#8], 8, some ⟨0x07#8, 0⟩, true) ∧
    (nextOf (runFor 2 heldThenReset)).map (fun t => (t.out, t.byteCnt, t.rd, t.cmdPort, t.rst)) =
      some ([0xD0#8], 0, [], some ⟨0x07#8, 0⟩, false) ∧
    (nextOf (runFor 3 heldThenReset)).map (fun t => (t.rd, t.host)) = some ([0x00000001#32], []) := by decide
theorem test_run_ended :
    ({ sample with host := [.idle, .idle], rstIn := [false, true] } : State).runEnded = true ∧
    ({ sample with host := [.idle, .offer ⟨0x00#8, 0⟩] } : State).runEnded = false ∧
    ({ sample with byteCnt := 1 } : State).runEnded = false := by decide
theorem test_status_p6 : ({ sample with byteIdx := 2#2 } : State).status = 0x50#8 := by decide
theorem test_present_runs_step : (nextOf (step (State.reset.withFetchWord 8 0x03))).map (fun t => t.cause) =
    some .noRule := by decide
theorem test_ports_of_emission : ({ sample with byteCnt := 1 } : State).outPort = some 0xD0#8 ∧
    ({ sample with byteCnt := 1 } : State).rdPort = none := by decide

/-! ## The assembler and the host (30 R39, R40, 95 V6) -/

theorem test_asm_hex_with_comment : assembleLine narrow
    ['L', 'D', 'R', 'U', 'L', 'E', ' ', '0', 'x', '6', 'E', ' ', ';', 'r'] = .ok [⟨0x01#8, 110⟩] := by rfl
theorem test_asm_generate : assembleLine Config.recommended
    ['G', 'E', 'N', 'E', 'R', 'A', 'T', 'E', ' ', '5', ',', ' ', '3', '0', ',', ' ', '1', '0', '0'] =
    .ok [⟨0x01#8, 0x1E⟩, ⟨0x02#8, 0⟩, ⟨0x04#8, 0x64⟩, ⟨0x06#8, 5⟩] := by rfl
theorem test_asm_refusals :
    assembleLine narrow ['E', 'V', 'O', 'L', 'V', 'E'] = .error .operandMissing ∧
    assembleLine narrow ['N', 'O', 'P', ' ', '1'] = .error .operandForbidden ∧
    assembleLine narrow ['n', 'o', 'p'] = .error .unknownMnemonic ∧
    assembleLine Config.recommended ['L', 'D', 'R', 'U', 'L', 'E', ' ', '2', '5', '6'] = .error .operandRange ∧
    assembleLine narrow ['E', 'M', 'I', 'T', 'N', ' ', '2', '5', '6'] = .error .operandRange := ⟨rfl, rfl, rfl, rfl, rfl⟩
theorem test_combine_hello : combine [0x68#8, 0x65#8, 0x6C#8, 0x6C#8, 0x6F#8] [0xAF#8, 0x5F#8, 0xB9#8, 0xD0#8, 0xAF#8] =
    [0xC7#8, 0x3A#8, 0xD5#8, 0xBC#8, 0xC0#8] := by decide

/-! ## Witnesses: a concrete case that meets the hypotheses of each statement that has some -/

theorem witness_command_codes_decode :
    (⟨0x00#8, 3⟩ : Command).cmd = 0x00#8 ∧ (⟨0x01#8, 255⟩ : Command).cmd = 0x01#8 ∧ (⟨0x02#8, 0⟩ : Command).cmd = 0x02#8 ∧
    (⟨0x03#8, 0⟩ : Command).cmd = 0x03#8 ∧ (⟨0x04#8, 0⟩ : Command).cmd = 0x04#8 ∧ (⟨0x05#8, 0⟩ : Command).cmd = 0x05#8 ∧
    (⟨0x06#8, 0⟩ : Command).cmd = 0x06#8 ∧ (⟨0x07#8, 0⟩ : Command).cmd = 0x07#8 ∧ (⟨0x08#8, 0⟩ : Command).cmd = 0x08#8 ∧
    9 ≤ (⟨0x09#8, 0⟩ : Command).cmd.toNat ∧ 9 ≤ (⟨0xFF#8, 0⟩ : Command).cmd.toNat := by decide

theorem witness_encoded_transaction_decodes :
    (Instr.ldrule 255).wf narrow = true ∧ (Instr.evolve 0).wf narrow = true ∧ (Instr.emitn 255).wf narrow = true ∧
    Instr.nop.wf narrow = true := by decide

theorem witness_decoded_transaction_reencodes :
    decode ⟨0x04#8, 255⟩ = .ok (.evolve 255) ∧ decode ⟨0x00#8, 255⟩ = .ok .nop := ⟨rfl, rfl⟩

/-- `sample` with one command offered. -/
def offering (c : Command) : State := { sample with host := [.offer c] }

theorem witness_step_performs_decoded_command :
    (offering ⟨0x05#8, 0⟩).rst = false ∧ (offering ⟨0x05#8, 0⟩).host = .offer ⟨0x05#8, 0⟩ :: [] ∧ (offering ⟨0x05#8, 0⟩).busy = false ∧
    Command.fits (offering ⟨0x05#8, 0⟩).cfg ⟨0x05#8, 0⟩ = true ∧ decode ⟨0x05#8, 0⟩ = .ok .emit :=
  ⟨rfl, rfl, by decide, by decide, rfl⟩

theorem witness_presented_word_runs :
    decodeTableWord 8 0x05 = some .emit ∧ (Command.ofNumber 8 0x05).fits sample.cfg = true := by decide

theorem witness_illegal_code_faults :
    (offering ⟨0x09#8, 0⟩).rst = false ∧ ({ faulted with host := [.offer ⟨0xFF#8, 0⟩] } : State).rst = false ∧
    (offering ⟨0x09#8, 0⟩).busy = false ∧ Command.fits sample.cfg ⟨0x09#8, 0⟩ = true ∧
    9 ≤ (⟨0x09#8, 0⟩ : Command).cmd.toNat ∧ (offering ⟨0x09#8, 0⟩).err = false ∧
    ({ faulted with host := [.offer ⟨0xFF#8, 0⟩] } : State).busy = false ∧
    Command.fits faulted.cfg ⟨0xFF#8, 0⟩ = true ∧ faulted.err = true := by decide

theorem witness_accepted_exactly_when_ready :
    (nextOf (step (offering ⟨0x00#8, 0⟩))).isSome = true ∧ (offering ⟨0x00#8, 0⟩).cmdReady = true ∧
    (nextOf (step { offering ⟨0x00#8, 0⟩ with byteCnt := 1 })).isSome = true ∧
    ({ offering ⟨0x00#8, 0⟩ with byteCnt := 1 } : State).cmdReady = false ∧
    (offering ⟨0x00#8, 0⟩).rst = false ∧ (offering ⟨0x00#8, 0⟩).host = .offer ⟨0x00#8, 0⟩ :: [] ∧
    (nextOf (step { offering ⟨0x00#8, 0⟩ with byteCnt := 1, rstIn := [true] })).isSome = true ∧
    ({ offering ⟨0x00#8, 0⟩ with byteCnt := 1, rstIn := [true] } : State).rst = true := by decide

theorem witness_engine_evolution_step :
    ({ sample with iterCnt := 1 } : State).rst = false ∧ ({ sample with iterCnt := 1 } : State).iterCnt ≠ 0 := by decide

theorem witness_engine_emission_step :
    ({ sample with byteCnt := 1 } : State).rst = false ∧ ({ sample with byteCnt := 1 } : State).iterCnt = 0 ∧
    ({ sample with byteCnt := 1 } : State).byteCnt ≠ 0 := by decide

theorem witness_idle_keeps_all_state :
    sample.rst = false ∧ sample.busy = false ∧ sample.cmdValid = false ∧ sample.runEnded = true ∧
    ({ sample with host := [.idle], rstIn := [false, true] } : State).rst = false ∧
    ({ sample with host := [.idle], rstIn := [false, true] } : State).busy = false ∧
    ({ sample with host := [.idle], rstIn := [false, true] } : State).cmdValid = false := by decide

theorem witness_reset_sets_every_element :
    ({ offering ⟨0x05#8, 0⟩ with byteCnt := 9, rstIn := [true] } : State).rst = true ∧
    ({ faulted with rstIn := [true, true] } : State).rst = true := by decide

/-- The cases of the command statements: discarded, faulted, performed, at the edges of the operand's range. -/
theorem witness_command_cases :
    faulted.err = true ∧ State.reset.err = false ∧ State.reset.ruleValid = false ∧ sample.err = false ∧
    sample.ruleValid = true ∧ 256 ≤ 256 ∧ 255 < 256 := by decide

theorem witness_discarded_while_err : faulted.err = true := by decide

theorem witness_evolve_zero_restarts_lane : sample.Ready ∧ sample.ruleValid = true := by decide

theorem witness_rule_decoder_frame :
    (nextOf (exec (.ldrule 255) sample)).isSome = true ∧ (nextOf (exec (.ldrule 256) sample)).isSome = true := by decide

theorem witness_evolution_frame :
    (nextOf (exec .init sample)).isSome = true ∧ (nextOf (exec .step sample)).isSome = true ∧
    (nextOf (exec (.evolve 1) sample)).isSome = true ∧ (nextOf (exec .step State.reset)).isSome = true ∧
    State.reset.ruleValid = false ∧ sample.ruleValid = true := by decide

theorem witness_serializer_frame :
    (nextOf (exec .emit sample)).isSome = true ∧ (nextOf (exec (.emitn 1) sample)).isSome = true := by decide

theorem witness_observation_frame :
    (nextOf (exec .nop sample)).isSome = true ∧ (nextOf (exec .rdstate sample)).isSome = true ∧
    (nextOf (exec .rdrule sample)).isSome = true := by decide

/-- Both wrap-around columns are in the range of the statements about `next`. -/
theorem witness_columns_and_entries : (0 < 32 ∧ 31 < 32) ∧ 7 < 8 := by decide

/-- Two registers that agree on cells 31, 0 and 1 and nowhere else need not: the hypotheses of `NextIsLocal` at column 0. -/
theorem witness_next_is_local :
    (0x00000003#32).getLsbD ((0 + 31) % 32) = (0x7FFFFFFF#32).getLsbD ((0 + 31) % 32) ∧
    (0x00000003#32).getLsbD 0 = (0x7FFFFFFF#32).getLsbD 0 ∧
    (0x00000003#32).getLsbD ((0 + 1) % 32) = (0x7FFFFFFF#32).getLsbD ((0 + 1) % 32) := by decide

theorem witness_keystream_positions : 4 < 5 ∧ 0 + 4 < 5 ∧ 3 < 4 := by decide

/-- `sample` with these commands offered. -/
def scripted (commands : List Instr) : State := { sample with host := script commands }

theorem witness_evolve_runs_its_steps :
    (scripted [.evolve 2, .emit]).Ready ∧ (scripted [.evolve 2, .emit]).ruleValid = true ∧
    2 < (scripted [.evolve 2, .emit]).cfg.argLimit ∧ (scripted [.evolve 2, .emit]).host = script (.evolve 2 :: [.emit]) ∧
    2 ≤ 2 ∧ (scripted [.evolve 2, .emit]).noResetFor (1 + 2) = true ∧
    ({ scripted [.evolve 2, .emit] with rstIn := [false, false, false, true] } : State).noResetFor (1 + 2) = true := by
  decide

theorem witness_evolve_equals_steps :
    sample.Ready ∧ sample.ruleValid = true ∧ 2 < sample.cfg.argLimit ∧ 0 < sample.cfg.argLimit ∧
    sample.noResetFor (1 + 2) = true := by decide

theorem witness_emitn_runs_its_bytes :
    (scripted [.emitn 5]).Ready ∧ 5 < (scripted [.emitn 5]).cfg.argLimit ∧
    (scripted [.emitn 5]).host = script (.emitn 5 :: []) ∧ 5 ≤ 5 ∧
    (scripted [.emitn 5]).noResetFor (1 + 5) = true := by decide

theorem witness_split_emission : sample.Ready ∧ sample.cfg.valid ∧ 3 + 3 < sample.cfg.argLimit ∧
    sample.noResetFor (2 + 3 + 3) = true := by decide

theorem witness_generate_emits_the_keystream :
    (scripted (expandGenerate 5 255 2 ++ [.rdstate])).Ready ∧ sample.cfg.valid ∧ 255 ≤ 255 ∧ 5 < sample.cfg.argLimit ∧
    2 < sample.cfg.argLimit ∧
    (scripted (expandGenerate 5 255 2 ++ [.rdstate])).host = script (expandGenerate 5 255 2 ++ [.rdstate]) ∧
    (scripted (expandGenerate 5 255 2 ++ [.rdstate])).noResetFor (4 + 2 + 5) = true := by decide

theorem witness_nop_is_transparent : sample.noResetFor (2 + 1) = true ∧
    ((nextOf (runFor 2 { sample with host := script ([.emit] ++ [.rdstate]) })).map fun t => t.runEnded) = some true := by
  decide

/-- States with the invariant whose step has a next state: idle, faulted, evolving, emitting, accepting. -/
theorem witness_step_keeps_invariant :
    (sample.Inv ∧ (nextOf (step sample)).isSome = true) ∧ (faulted.Inv ∧ (nextOf (step faulted)).isSome = true) ∧
    (({ sample with iterCnt := 3, byteIdx := 0#2 } : State).Inv ∧
      (nextOf (step { sample with iterCnt := 3, byteIdx := 0#2 })).isSome = true) ∧
    (({ sample with byteCnt := 1 } : State).Inv ∧ (nextOf (step { sample with byteCnt := 1 })).isSome = true) ∧
    ((offering ⟨0x04#8, 3⟩).Inv ∧ (nextOf (step (offering ⟨0x04#8, 3⟩))).isSome = true) := by
  refine ⟨⟨?_, ?_⟩, ⟨?_, ?_⟩, ⟨?_, ?_⟩, ⟨?_, ?_⟩, ?_, ?_⟩ <;> decide

/-- Steps of each kind the whole-machine statements speak of, with a change in what they speak of. -/
theorem witness_whole_machine_steps :
    ((nextOf (step { sample with iterCnt := 1 })).map fun t => decide (t.state ≠ sample.state)) = some true ∧
    ((nextOf (step (offering ⟨0x02#8, 0⟩))).map fun t => decide (t.state ≠ sample.state)) = some true ∧
    ((nextOf (step (offering ⟨0x01#8, 30⟩))).map fun t => decide (t.rule ≠ sample.rule)) = some true ∧
    ((nextOf (step (offering ⟨0x05#8, 0⟩))).map fun t => decide (t.byteIdx ≠ sample.byteIdx)) = some true ∧
    ((nextOf (step { sample with rstIn := [true] })).map fun t => decide (t.byteIdx ≠ sample.byteIdx)) = some true := by
  decide

theorem witness_faults_are_precise :
    State.reset.err = false ∧ ((nextOf (exec .step State.reset)).map fun t => t.err) = some true ∧
    ((nextOf (exec (.ldrule 256) State.reset)).map fun t => t.err) = some true ∧
    ((nextOf (exec .init State.reset)).map fun t => t.err) = some false := by decide

theorem witness_only_acceptance_faults :
    ((nextOf (step { State.reset with host := [.offer ⟨0x03#8, 0⟩] })).map fun t => t.err) = some true ∧
    ((nextOf (step { faulted with rstIn := [true] })).map fun t => t.err) = some false ∧
    ((nextOf (step { faulted with host := [.offer ⟨0x02#8, 0⟩] })).map fun t => t.cause) = some .noRule := by decide

theorem witness_faulted_block_only_answers_reads :
    ({ faulted with host := script [.emit, .rdstate] } : State).Inv ∧
    ({ faulted with host := script [.emit, .rdstate] } : State).err = true ∧
    ({ faulted with host := script [.emit, .rdstate] } : State).noResetFor 2 = true ∧
    (nextOf (runFor 2 { faulted with host := script [.emit, .rdstate] })).isSome = true := by decide

/-- `s`, reset in this step and after two more, by a host that goes on holding an `EMIT`. -/
def resetWhileEmitOffered (s : State) : State := { s with host := script [.emit], rstIn := [true, false, false, true] }

theorem witness_outputs_depend_on_commands_only :
    (resetWhileEmitOffered sample).cfg = (resetWhileEmitOffered faulted).cfg ∧
    (resetWhileEmitOffered sample).rst = true ∧
    (resetWhileEmitOffered sample).host = (resetWhileEmitOffered faulted).host ∧
    (resetWhileEmitOffered sample).rstIn = (resetWhileEmitOffered faulted).rstIn ∧
    (nextOf (runFor (1 + 1) (resetWhileEmitOffered sample))).isSome = true := by decide

theorem witness_block_never_stops :
    (offering ⟨0x04#8, 18446744073709551615⟩).offersFit = true := by decide

theorem witness_only_wide_operands_are_refused :
    sample.rst = false ∧ sample.busy = false ∧ sample.cfg.argLimit ≤ (⟨0x04#8, 18446744073709551616⟩ : Command).arg := by decide

theorem witness_pseudo_instructions_expand :
    255 < narrow.argLimit ∧ 255 ≤ 255 ∧ 0 < narrow.argLimit := by decide

theorem witness_assembled_commands_are_legal :
    narrow.valid ∧ assemble narrow [['E', 'M', 'I', 'T'], ['L', 'D', 'R', 'U', 'L', 'E', ' ', '9']] =
      .ok [⟨0x05#8, 0⟩, ⟨0x01#8, 9⟩] := ⟨by decide, rfl⟩

theorem witness_assembler_reads_numbers : 0 < 110 ∧
    ['6', 'E'].map Char.toLower = (Nat.digits 16 110).reverse.map Nat.digitChar ∧
    ['6', 'e'].map Char.toLower = (Nat.digits 16 110).reverse.map Nat.digitChar := by norm_num; decide

theorem witness_combine : [0x68#8][0]? = some 0x68#8 ∧ [0xAF#8, 0x5F#8][0]? = some 0xAF#8 ∧
    [0x68#8].length ≤ [0xAF#8, 0x5F#8].length := by decide

theorem witness_blocks_share_nothing :
    (match stepInstance 1 [sample, offering ⟨0x05#8, 0⟩] with | .next _ => true | .fault _ => false | .refused _ => false) =
      true ∧ (0 : Nat) ≠ 1 ∧ [sample, offering ⟨0x05#8, 0⟩][1]? = some (offering ⟨0x05#8, 0⟩) := by decide

end Sys2Proof.Tests
end

/-! SUPPORT. Scope (00_scope.md): the one refusal of the model, and outputs as a function of the commands. -/

namespace Sys2Proof.Machine

/-! ## Steps that have a next state -/

theorem fits_eq_false_iff (c : Command) (cfg : Config) : c.fits cfg = false ↔ cfg.argLimit ≤ c.arg := by
  simp [Command.fits]

/-- An illegal code has a next state in every state: it is discarded or recorded. -/
theorem acceptIllegal_total (s : State) : ∃ t, acceptIllegal s = .next t := by
  cases he : s.err with
  | true => exact ⟨_, unlessErr_of_err he _⟩
  | false => exact ⟨_, unlessErr_of_ok he _⟩

/-- What the bus can carry is accepted, whatever its code. -/
theorem acceptOffer_total {c : Command} {s : State} (hf : c.fits s.cfg = true) : ∃ t, acceptOffer c s = .next t := by
  rw [acceptOffer, if_pos hf]
  cases decode c with
  | ok i => exact exec_total i s
  | error _ => exact acceptIllegal_total s

/-- A step has a next state, or an idle block is offered what the bus cannot carry. -/
theorem step_total_or_wide (s : State) :
    (∃ t, step s = .next t) ∨
    (s.rst = false ∧ s.busy = false ∧ ∃ c rest, s.host = .offer c :: rest ∧ c.fits s.cfg = false) := by
  cases hr : s.rst with
  | true => exact .inl ⟨_, step_of_reset hr⟩
  | false =>
    cases hb : s.busy with
    | true => exact .inl ⟨_, step_of_busy hr hb⟩
    | false =>
      obtain ⟨c, rest, hh, -⟩ | hv := cmdPort_cases s
      · cases hf : c.fits s.cfg with
        | true => rw [step_of_accept hr hb hh]; exact .inl (acceptOffer_total hf)
        | false => exact .inr ⟨rfl, rfl, c, rest, hh, hf⟩
      · exact .inl ⟨_, step_of_idle hr hb hv⟩

/-- Settles O55: every step but the acceptance of a wide operand has a next state. -/
theorem onlyWideOperandsAreRefused : Obligations.OnlyWideOperandsAreRefused := by
  intro s
  constructor
  · rintro ⟨r, hs⟩
    obtain ⟨t, ht⟩ | ⟨hr, hb, c, rest, hh, hf⟩ := step_total_or_wide s
    · rw [ht] at hs; cases hs
    · exact ⟨hr, hb, c, rest, hh, (fits_eq_false_iff c s.cfg).mp hf⟩
  · rintro ⟨hr, hb, c, rest, hh, hw⟩
    exact ⟨_, step_of_wide hr hb hh ((fits_eq_false_iff c s.cfg).mpr hw)⟩

/-! ## Outcomes under a change of the state -/

/-- An outcome with its next state, if it has one, changed by `f`. -/
def mapNext (f : State → State) : Result → Result
  | .next s => .next (f s)
  | .fault r => .fault r
  | .refused r => .refused r

@[simp] theorem mapNext_next (f : State → State) (s : State) : mapNext f (.next s) = .next (f s) := rfl

theorem mapNext_eq_next {f : State → State} {p : Result} {t : State} (h : mapNext f p = .next t) :
    ∃ w, p = .next w ∧ t = f w := by
  cases p with
  | next w => cases h; exact ⟨w, rfl, rfl⟩
  | fault r => cases h
  | refused r => cases h

/-- A change of the state that keeps `ERR` passes through the check of `ERR`. -/
theorem unlessErr_mapNext {f : State → State} {s : State} (hf : (f s).err = s.err) (p : Result) :
    unlessErr (f s) (mapNext f p) = mapNext f (unlessErr s p) := by
  cases he : s.err with
  | true => rw [unlessErr_of_err he, unlessErr_of_err (hf.trans he), mapNext_next]
  | false => rw [unlessErr_of_ok he, unlessErr_of_ok (hf.trans he)]

/-- A change of the state that commutes with every step commutes with every run. -/
theorem runFor_mapNext {f : State → State} (hf : ∀ s, step (f s) = mapNext f (step s)) (k : Nat) (s : State) :
    runFor k (f s) = mapNext f (runFor k s) := by
  induction k generalizing s with
  | zero => rfl
  | succ k ih =>
    rw [runFor, runFor, hf s]
    cases step s with
    | next t => exact ih t
    | fault r => rfl
    | refused r => rfl

/-! ## No step reads the histories -/

/-- `s`, observed for longer: the bytes and words given earlier stand before those it has recorded. -/
def State.withPast (bytes : List Byte) (words : List Word) (s : State) : State :=
  { s with out := bytes ++ s.out, rd := words ++ s.rd }

@[simp] theorem withPast_out (bytes : List Byte) (words : List Word) (s : State) :
    (s.withPast bytes words).out = bytes ++ s.out := rfl
@[simp] theorem withPast_rd (bytes : List Byte) (words : List Word) (s : State) :
    (s.withPast bytes words).rd = words ++ s.rd := rfl
@[simp] theorem withPast_forget (bytes : List Byte) (words : List Word) (s : State) :
    (s.withPast bytes words).forget = s.forget := rfl

/-- A state is what it holds, with its own histories as its past. -/
theorem forget_withPast (s : State) : s.forget.withPast s.out s.rd = s := by
  simp [State.forget, State.withPast]

section WithPast
variable (bytes : List Byte) (words : List Word)

theorem emitLane_withPast (s : State) :
    (s.withPast bytes words).emitLane = s.emitLane.withPast bytes words := by
  simp [State.emitLane, State.withPast, State.laneByte]

theorem respond_withPast (s : State) (w : Word) :
    (s.withPast bytes words).respond w = (s.respond w).withPast bytes words := by
  simp [State.respond, State.withPast]

theorem unlessErr_withPast (s : State) (p : Result) :
    unlessErr (s.withPast bytes words) (mapNext (State.withPast bytes words) p) =
      mapNext (State.withPast bytes words) (unlessErr s p) :=
  unlessErr_mapNext rfl p

theorem execLdrule_withPast (arg : Nat) (s : State) :
    execLdrule arg (s.withPast bytes words) = mapNext (State.withPast bytes words) (execLdrule arg s) := by
  rw [execLdrule, execLdrule, ← unlessErr_withPast]
  cases ruleOperand arg <;> rfl

theorem execStep_withPast (s : State) :
    execStep (s.withPast bytes words) = mapNext (State.withPast bytes words) (execStep s) := by
  rw [execStep, execStep, ← unlessErr_withPast, apply_ite (mapNext _)]
  rfl

theorem execEvolve_withPast (n : Nat) (s : State) :
    execEvolve n (s.withPast bytes words) = mapNext (State.withPast bytes words) (execEvolve n s) := by
  rw [execEvolve, execEvolve, ← unlessErr_withPast, apply_ite (mapNext _)]
  rfl

theorem execEmit_withPast (s : State) :
    execEmit (s.withPast bytes words) = mapNext (State.withPast bytes words) (execEmit s) := by
  rw [execEmit, execEmit, ← unlessErr_withPast, mapNext_next, emitLane_withPast]

/-- A command does the same whatever was observed earlier, and appends the same to the histories. -/
theorem exec_withPast (i : Instr) (s : State) :
    exec i (s.withPast bytes words) = mapNext (State.withPast bytes words) (exec i s) := by
  cases i with
  | nop => rfl
  | ldrule arg => exact execLdrule_withPast bytes words arg s
  | init => exact unlessErr_withPast bytes words s (.next (s.writeReg 0x00000001#32).restartLane)
  | step => exact execStep_withPast bytes words s
  | evolve n => exact execEvolve_withPast bytes words n s
  | emit => exact execEmit_withPast bytes words s
  | emitn n => exact unlessErr_withPast bytes words s (.next (s.writeByteCnt (countOperand n)))
  | rdstate => exact congrArg Host.Outcome.next (respond_withPast bytes words s s.state)
  | rdrule => exact congrArg Host.Outcome.next (respond_withPast bytes words s s.ruleWord)

theorem acceptOffer_withPast (c : Command) (s : State) :
    acceptOffer c (s.withPast bytes words) = mapNext (State.withPast bytes words) (acceptOffer c s) := by
  have hcfg : (s.withPast bytes words).cfg = s.cfg := rfl
  rw [acceptOffer, acceptOffer, hcfg]
  cases c.fits s.cfg with
  | false => rfl
  | true =>
    cases decode c with
    | ok i => exact exec_withPast bytes words i s
    | error _ => exact unlessErr_withPast bytes words s (.next (s.raise .illegalCmd))

theorem engineStep_withPast (s : State) :
    (s.withPast bytes words).engineStep = s.engineStep.withPast bytes words := by
  by_cases hi : s.iterCnt = 0
  · rw [engineStep_of_no_iter hi, engineStep_of_no_iter (s := s.withPast bytes words) hi, State.emissionStep,
      emitLane_withPast]
    rfl
  · rw [engineStep_of_iter hi, engineStep_of_iter (s := s.withPast bytes words) hi]
    rfl

/-- No step reads the histories: each appends to them what it would append to shorter ones. -/
theorem step_withPast (s : State) :
    step (s.withPast bytes words) = mapNext (State.withPast bytes words) (step s) := by
  cases hr : s.rst with
  | true => rw [step_of_reset hr, step_of_reset (s := s.withPast bytes words) hr]; rfl
  | false =>
    cases hb : s.busy with
    | true =>
      rw [step_of_busy hr hb, step_of_busy (s := s.withPast bytes words) hr hb, mapNext_next, ← engineStep_withPast]
      rfl
    | false =>
      obtain ⟨c, rest, hh, -⟩ | hv := cmdPort_cases s
      · rw [step_of_accept hr hb hh, step_of_accept (s := s.withPast bytes words) hr hb hh, ← acceptOffer_withPast]
        rfl
      · rw [step_of_idle hr hb hv, step_of_idle (s := s.withPast bytes words) hr hb hv]
        rfl

end WithPast

/-- A run is the run of the block without its histories, with them put before what it gives. -/
theorem runFor_eq_forget (k : Nat) (s : State) :
    runFor k s = mapNext (State.withPast s.out s.rd) (runFor k s.forget) := by
  rw [← runFor_mapNext (step_withPast s.out s.rd), forget_withPast]

/-- Blocks of one width with hosts that go on alike hold the same after reset, whatever they held before. -/
theorem resetEvent_forget_congr {s u : State} (hc : s.cfg = u.cfg) (hh : s.host = u.host) (hi : s.rstIn = u.rstIn) :
    s.elapse.resetEvent.forget = u.elapse.resetEvent.forget := by
  simp [State.resetEvent, State.forget, hc, hh, hi]

/-- Settles O53: reset makes the two blocks alike but for their histories, which no later step reads. -/
theorem outputsDependOnCommandsOnly : Obligations.OutputsDependOnCommandsOnly := by
  intro k s u t hc hr hh hi hrun
  have hru : u.rst = true := by rwa [State.rst, ← hi]
  rw [runFor_succ k (step_of_reset hr), runFor_eq_forget, resetEvent_forget_congr hc hh hi] at hrun
  obtain ⟨w, hw, rfl⟩ := mapNext_eq_next hrun
  have hv : runFor (k + 1) u = .next (w.withPast u.out u.rd) := by
    rw [runFor_succ k (step_of_reset hru), runFor_eq_forget, hw]
    rfl
  exact ⟨_, w.out, w.rd, hv, by simp⟩

end Sys2Proof.Machine


/-! SUPPORT. State (10_state.md): what a step can write of each state element, the invariant, acceptance, the status port. -/

namespace Sys2Proof.Machine

/-! ## The operand of a decoded command -/

/-- The inversion lemma of `decode`: a command that takes an operand has the whole of `arg` (30_encoding.md R36). -/
theorem decode_ok_cases {c : Command} {i : Instr} (h : decode c = .ok i) :
    i = .nop ∨ i = .ldrule c.arg ∨ i = .init ∨ i = .step ∨ i = .evolve c.arg ∨ i = .emit ∨ i = .emitn c.arg ∨
      i = .rdstate ∨ i = .rdrule := by
  unfold decode at h
  split at h <;> cases h <;> simp

theorem decode_ldrule_arg {c : Command} {a : Nat} (h : decode c = .ok (.ldrule a)) : a = c.arg := by
  simpa using decode_ok_cases h

theorem decode_evolve_arg {c : Command} {n : Nat} (h : decode c = .ok (.evolve n)) : n = c.arg := by
  simpa using decode_ok_cases h

theorem decode_emitn_arg {c : Command} {n : Nat} (h : decode c = .ok (.emitn n)) : n = c.arg := by
  simpa using decode_ok_cases h

/-- A transaction the bus can carry decodes to a well-formed command. -/
theorem decode_wf {c : Command} {i : Instr} {cfg : Config} (hd : decode c = .ok i) (hf : c.fits cfg = true) :
    i.wf cfg = true := by
  cases i with
  | ldrule a => rw [decode_ldrule_arg hd]; exact hf
  | evolve n => rw [decode_evolve_arg hd]; exact hf
  | emitn n => rw [decode_emitn_arg hd]; exact hf
  | _ => rfl

/-! ## What the engine, an illegal code and a command leave unchanged -/

@[simp] theorem engineStep_rule (s : State) : s.engineStep.rule = s.rule := by
  unfold State.engineStep; split <;> rfl
@[simp] theorem engineStep_ruleValid (s : State) : s.engineStep.ruleValid = s.ruleValid := by
  unfold State.engineStep; split <;> rfl
@[simp] theorem engineStep_table (s : State) : s.engineStep.table = s.table := by
  unfold State.engineStep; split <;> rfl
@[simp] theorem engineStep_host (s : State) : s.engineStep.host = s.host := by
  unfold State.engineStep; split <;> rfl

/-- An accepted illegal code can write `ERR` and `CAUSE` only (30_encoding.md R37). -/
theorem acceptIllegal_frame {s t : State} (h : acceptIllegal s = .next t) :
    ∃ e k, t = { s with err := e, cause := k } := by
  obtain ⟨-, rfl⟩ | ⟨-, rfl⟩ := acceptIllegal_next h
  · exact ⟨t.err, t.cause, rfl⟩
  · exact ⟨true, .illegalCmd, rfl⟩

theorem Performed.host_eq {s t : State} {i : Instr} (h : Performed s i t) : t.host = s.host := by
  cases h <;> rfl

/-- Taking an offer touches no other offer. -/
theorem acceptOffer_host {c : Command} {s t : State} (h : acceptOffer c s = .next t) : t.host = s.host := by
  obtain ⟨-, ⟨i, -, he⟩ | ⟨e, -, he⟩⟩ := acceptOffer_next h
  · exact (exec_next he).host_eq
  · obtain ⟨_, _, rfl⟩ := acceptIllegal_frame he
    rfl

/-- Only `INIT` and `STEP` write `STATE` when performed (10_state.md R10). -/
theorem Performed.state_writer {s t : State} {i : Instr} (h : Performed s i t) (hne : t.state ≠ s.state) :
    s.err = false ∧ (i = .init ∨ i = .step) := by
  cases h with
  | initialised he => exact ⟨he, .inl rfl⟩
  | stepped he _ => exact ⟨he, .inr rfl⟩
  | _ => exact absurd rfl hne

/-- Only `LDRULE` writes `RULE`, `RULE_VALID` and `TABLE` when performed (10_state.md R8, R9). -/
theorem Performed.rule_writer {s t : State} {i : Instr} (h : Performed s i t)
    (hne : t.rule ≠ s.rule ∨ t.ruleValid ≠ s.ruleValid ∨ t.table ≠ s.table) :
    s.err = false ∧ ∃ arg < 256, i = .ldrule arg := by
  cases h with
  | ruleLoaded arg he ha => exact ⟨he, arg, ha, rfl⟩
  | _ => simp at hne

/-- Only `EMIT`, which advances it, and `INIT`, `STEP` and `EVOLVE`, which restart it, write `BYTE_IDX` when performed
(10_state.md R13). -/
theorem Performed.lane_writer {s t : State} {i : Instr} (h : Performed s i t) (hne : t.byteIdx ≠ s.byteIdx) :
    s.err = false ∧ (t = s.emitLane ∨ (t.byteIdx = 0#2 ∧ (i = .init ∨ i = .step ∨ ∃ n, i = .evolve n))) := by
  cases h with
  | initialised he => exact ⟨he, .inr ⟨rfl, .inl rfl⟩⟩
  | stepped he _ => exact ⟨he, .inr ⟨rfl, .inr (.inl rfl)⟩⟩
  | evolving n he _ => exact ⟨he, .inr ⟨rfl, .inr (.inr ⟨n, rfl⟩)⟩⟩
  | emitted he => exact ⟨he, .inl rfl⟩
  | _ => exact absurd rfl hne

/-! ## The invariant -/

section Invariant
variable {s t : State}

theorem reset_table_eq_buildRule : State.reset.table = buildRule 0x00#8 := by decide

/-- Reset establishes the invariant on a block of a valid width, whatever it held before. -/
theorem resetEvent_inv (h : s.cfg.valid) : s.resetEvent.Inv := by
  have hpos : 0 < s.cfg.argLimit := Nat.two_pow_pos _
  exact ⟨reset_table_eq_buildRule, ⟨h, hpos, hpos⟩, .inl rfl, ⟨fun _ => ⟨rfl, rfl⟩, by simp⟩,
    fun _ => ⟨rfl, rfl⟩, fun _ => rfl⟩

theorem elapse_inv (h : s.Inv) : s.elapse.Inv := h

theorem consume_inv (h : s.Inv) : s.consume.Inv := h

theorem writeReg_inv (h : s.Inv) (v : Word) : (s.writeReg v).Inv := h

theorem respond_inv (h : s.Inv) (w : Word) : (s.respond w).Inv := h

theorem restartLane_inv (h : s.Inv) : s.restartLane.Inv := by
  obtain ⟨ht, hc, ho, hf, hn, -⟩ := h
  exact ⟨ht, hc, ho, hf, hn, fun _ => rfl⟩

/-- The lane may move while no evolution is under way. -/
theorem emitLane_inv (h : s.Inv) (hi : s.iterCnt = 0) : s.emitLane.Inv := by
  obtain ⟨ht, hc, ho, hf, hn, -⟩ := h
  exact ⟨ht, hc, ho, hf, hn, fun hne => absurd hi hne⟩

/-- Rule and table are written together (40_rule_decoder.md R43). -/
theorem writeRule_inv (h : s.Inv) (r : Byte) : (s.writeRule r (buildRule r)).Inv := by
  obtain ⟨-, hc, ho, hf, -, hl⟩ := h
  exact ⟨rfl, hc, ho, hf, by simp, hl⟩

/-- A fault is recorded on an idle block (60_exceptions.md R66, R67). -/
theorem raise_inv (h : s.Inv) (hb : s.busy = false) {k : Cause} (hk : k ≠ .none) : (s.raise k).Inv := by
  obtain ⟨ht, hc, ho, -, hn, hl⟩ := h
  exact ⟨ht, hc, ho, ⟨fun _ => (busy_eq_false_iff s).mp hb, fun _ => hk, fun _ => rfl⟩, hn, hl⟩

/-- An evolution of fewer than `2^ARG_WIDTH` steps may be under way on an unfaulted block that has a rule, emits nothing and
is at lane 0. -/
theorem writeIterCnt_inv (h : s.Inv) (he : s.err = false) (hv : s.ruleValid = true) (hb : s.byteCnt = 0)
    (hx : s.byteIdx = 0#2) {n : Nat} (hlt : n < s.cfg.argLimit) : (s.writeIterCnt n).Inv := by
  obtain ⟨ht, ⟨hw, -, hbl⟩, -, ⟨-, hcause⟩, -, -⟩ := h
  exact ⟨ht, ⟨hw, hlt, hbl⟩, .inr hb, ⟨by simp [he], hcause⟩, by simp [hv], fun _ => hx⟩

/-- An emission of fewer than `2^ARG_WIDTH` bytes may be under way on an unfaulted block that is not evolving. -/
theorem writeByteCnt_inv (h : s.Inv) (he : s.err = false) (hi : s.iterCnt = 0) {n : Nat} (hlt : n < s.cfg.argLimit) :
    (s.writeByteCnt n).Inv := by
  obtain ⟨ht, ⟨hw, hil, -⟩, -, ⟨-, hcause⟩, hn, hl⟩ := h
  exact ⟨ht, ⟨hw, hil, hlt⟩, .inl hi, ⟨by simp [he], hcause⟩, hn, hl⟩

/-- A busy block has not faulted (60_exceptions.md R67). -/
theorem err_eq_false_of_inv_of_busy (h : s.Inv) (hb : s.busy = true) : s.err = false := by
  obtain ⟨-, -, -, ⟨hidle, -⟩, -, -⟩ := h
  refine Bool.eq_false_of_not_eq_true fun he => ?_
  have hnot : s.busy = false := (busy_eq_false_iff s).mpr (hidle he)
  simp [hnot] at hb

theorem evolutionStep_inv (h : s.Inv) (hi : s.iterCnt ≠ 0) : s.evolutionStep.Inv := by
  have he : s.err = false := err_eq_false_of_inv_of_busy h ((busy_eq_true_iff s).mpr (.inl hi))
  have ⟨_, ⟨_, hlt, _⟩, hone, _, hrule, hlane⟩ := h
  have hv : s.ruleValid = true := Bool.eq_true_of_not_eq_false fun hv => hi (hrule hv).2
  exact writeIterCnt_inv (writeReg_inv h _) he hv (hone.resolve_left hi) (hlane hi) (Nat.sub_lt_of_lt hlt)

theorem emissionStep_inv (h : s.Inv) (hb : s.busy = true) (hi : s.iterCnt = 0) : s.emissionStep.Inv := by
  have ⟨_, ⟨_, _, hlt⟩, _, _, _, _⟩ := h
  have he : s.err = false := err_eq_false_of_inv_of_busy h hb
  exact writeByteCnt_inv (emitLane_inv h hi) he hi (Nat.sub_lt_of_lt hlt)

theorem engineStep_inv (h : s.Inv) (hb : s.busy = true) : s.engineStep.Inv := by
  by_cases hi : s.iterCnt = 0
  · rw [engineStep_of_no_iter hi]; exact emissionStep_inv h hb hi
  · rw [engineStep_of_iter hi]; exact evolutionStep_inv h hi

/-- A well-formed command performed on an idle block keeps the invariant. -/
theorem Performed.inv {i : Instr} (hp : Performed s i t) (h : s.Inv) (hb : s.busy = false) (hw : i.wf s.cfg = true) :
    t.Inv := by
  obtain ⟨hi, hbc⟩ := (busy_eq_false_iff s).mp hb
  cases hp with
  | discarded | nop => exact h
  | ruleLoaded => exact writeRule_inv h _
  | argRange | stepNoRule | evolveNoRule => exact raise_inv h hb (by decide)
  | initialised | stepped => exact restartLane_inv (writeReg_inv h _)
  | evolving n he hv => exact writeIterCnt_inv (restartLane_inv h) he hv hbc rfl (of_decide_eq_true hw)
  | emitted => exact emitLane_inv h hi
  | emitting n he => exact writeByteCnt_inv h he hi (of_decide_eq_true hw)
  | stateRead | ruleRead => exact respond_inv h _

theorem acceptIllegal_inv (ha : acceptIllegal s = .next t) (h : s.Inv) (hb : s.busy = false) : t.Inv := by
  obtain ⟨-, rfl⟩ | ⟨-, rfl⟩ := acceptIllegal_next ha
  · exact h
  · exact raise_inv h hb (by decide)

end Invariant

/-- Settles O45: each kind of step keeps the invariant, and reset establishes it anew. -/
theorem stepKeepsInvariant : Obligations.StepKeepsInvariant := by
  intro s t h hs
  cases step_next hs with
  | reset =>
    obtain ⟨-, ⟨hwidth, -⟩, -⟩ := h
    exact resetEvent_inv hwidth
  | engine _ hb => exact engineStep_inv (elapse_inv h) hb
  | performed c rest i t _ hb _ hf hd he => exact (exec_next he).inv (consume_inv h) hb (decode_wf hd hf)
  | illegal c rest e t _ hb _ _ _ he => exact acceptIllegal_inv he (consume_inv h) hb
  | idle => exact elapse_inv h

/-! ## Acceptance -/

/-- Settles O8: reset and the engine hold the offer, an idle block takes it from the script. -/
theorem acceptedExactlyWhenReady : Obligations.AcceptedExactlyWhenReady := by
  intro s t c rest hs
  refine ⟨by simp [State.cmdReady], fun hh => ⟨fun hr hready => ?_, fun hr hbusy => ?_, fun hr => ?_⟩⟩
  · have hb : s.busy = false := by simpa [State.cmdReady] using hready
    rw [step_of_accept hr hb hh] at hs
    simpa [hh] using acceptOffer_host hs
  · have hb : s.busy = true := by simpa [State.cmdReady] using hbusy
    rw [step_of_busy hr hb] at hs
    cases hs
    simp [hh]
  · rw [step_of_reset hr] at hs
    cases hs
    simp [hh]

/-- Settles O5: the state without the offer is `State.consume`. -/
theorem stepPerformsDecodedCommand : Obligations.StepPerformsDecodedCommand := by
  intro s c rest i hr hb hh hf hd
  simp [step_of_offer hr hb hh hf hd, State.consume, hh]

/-! ## The output ports -/

/-- From `s` to `t` the histories grow by at most one byte or one word, and the parameter stays. -/
def Emits (s t : State) (byte : Option Byte) (word : Option Word) : Prop :=
  t.out = s.out ++ byte.toList ∧ t.rd = s.rd ++ word.toList ∧ (byte = none ∨ word = none) ∧ t.cfg = s.cfg

theorem Emits.nothing {s t : State} (ho : t.out = s.out) (hr : t.rd = s.rd) (hc : t.cfg = s.cfg) :
    Emits s t none none :=
  ⟨by simp [ho], by simp [hr], .inl rfl, hc⟩

theorem Emits.byte {s t : State} (b : Byte) (ho : t.out = s.out ++ [b]) (hr : t.rd = s.rd) (hc : t.cfg = s.cfg) :
    Emits s t (some b) none :=
  ⟨ho, by simp [hr], .inr rfl, hc⟩

theorem Emits.word {s t : State} (w : Word) (ho : t.out = s.out) (hr : t.rd = s.rd ++ [w]) (hc : t.cfg = s.cfg) :
    Emits s t none (some w) :=
  ⟨by simp [ho], hr, .inl rfl, hc⟩

theorem Performed.emits {s t : State} {i : Instr} (h : Performed s i t) : ∃ b w, Emits s t b w := by
  cases h with
  | emitted => exact ⟨_, _, .byte s.laneByte rfl rfl rfl⟩
  | stateRead => exact ⟨_, _, .word s.state rfl rfl rfl⟩
  | ruleRead => exact ⟨_, _, .word s.ruleWord rfl rfl rfl⟩
  | _ => exact ⟨_, _, .nothing rfl rfl rfl⟩

theorem engineStep_emits (s : State) : ∃ b w, Emits s s.engineStep b w := by
  by_cases hi : s.iterCnt = 0
  · rw [engineStep_of_no_iter hi]; exact ⟨_, _, .byte s.laneByte rfl rfl rfl⟩
  · rw [engineStep_of_iter hi]; exact ⟨_, _, .nothing rfl rfl rfl⟩

theorem step_emits {s t : State} (h : step s = .next t) : ∃ b w, Emits s t b w := by
  cases step_next h with
  | reset | idle => exact ⟨_, _, .nothing rfl rfl rfl⟩
  | engine => exact engineStep_emits s.elapse
  | performed c rest i t _ _ _ _ _ he => exact (exec_next he).emits
  | illegal c rest e t _ _ _ _ _ he =>
    obtain ⟨_, _, rfl⟩ := acceptIllegal_frame he
    exact ⟨_, _, .nothing rfl rfl rfl⟩

/-- What was appended is what was added. -/
theorem head?_added_append_toList {α : Type} (l : List α) (x : Option α) : (added l (l ++ x.toList)).head? = x := by
  cases x <;> simp [added]

theorem outPort_of_append {s t : State} {b : Option Byte} (h : step s = .next t) (ho : t.out = s.out ++ b.toList) :
    s.outPort = b := by
  simp only [State.outPort, h, ho, head?_added_append_toList]

theorem rdPort_of_append {s t : State} {w : Option Word} (h : step s = .next t) (hr : t.rd = s.rd ++ w.toList) :
    s.rdPort = w := by
  simp only [State.rdPort, h, hr, head?_added_append_toList]

/-- Settles O46: a step appends at most one byte or one word, and the ports carry what it appends. -/
theorem outputsOneAtATime : Obligations.OutputsOneAtATime := by
  intro s t h
  obtain ⟨b, w, ho, hr, hone, hc⟩ := step_emits h
  rw [State.outValid, State.rdValid, outPort_of_append h ho, rdPort_of_append h hr]
  exact ⟨ho, hr, by simpa using hone, hc⟩

/-! ## Who writes what -/

/-- Settles O47: of the engine's two steps only evolution writes `STATE`, of the commands only `INIT` and `STEP`. -/
theorem registerHasFourWriters : Obligations.RegisterHasFourWriters := by
  intro s t h hne
  cases step_next h with
  | reset hr => exact .inl hr
  | engine =>
    refine .inr (.inl fun hi => hne ?_)
    rw [engineStep_of_no_iter (s := s.elapse) hi]
    rfl
  | performed c rest i t _ hb hh _ hd he =>
    obtain ⟨herr, rfl | rfl⟩ := (exec_next he).state_writer hne
    · exact .inr (.inr ⟨c, rest, hh, hb, herr, .inl hd⟩)
    · exact .inr (.inr ⟨c, rest, hh, hb, herr, .inr hd⟩)
  | illegal c rest e t _ _ _ _ _ he =>
    obtain ⟨_, _, rfl⟩ := acceptIllegal_frame he
    exact absurd rfl hne
  | idle => exact absurd rfl hne

/-- Settles O48: neither of the engine's steps writes the rule, and of the commands only `LDRULE` does. -/
theorem ruleHasTwoWriters : Obligations.RuleHasTwoWriters := by
  intro s t h hne
  cases step_next h with
  | reset hr => exact .inl hr
  | engine => simp at hne
  | performed c rest i t _ hb hh _ hd he =>
    obtain ⟨herr, arg, ha, rfl⟩ := (exec_next he).rule_writer hne
    obtain rfl := decode_ldrule_arg hd
    exact .inr ⟨c, rest, hh, hb, herr, ha, hd⟩
  | illegal c rest e t _ _ _ _ _ he =>
    obtain ⟨_, _, rfl⟩ := acceptIllegal_frame he
    simp at hne
  | idle => simp at hne

/-- A step that appends a byte and adds 1 to `BYTE_IDX` is one in which `out_valid = 1` and the lane advances modulo 4. -/
theorem lane_advances {s t : State} {b : Byte} (h : step s = .next t) (ho : t.out = s.out ++ [b])
    (hx : t.byteIdx = s.byteIdx + 1#2) : s.outValid = true ∧ t.byteIdx.toNat = (s.byteIdx.toNat + 1) % 4 :=
  ⟨by simp [State.outValid, outPort_of_append (b := some b) h ho], by simp [hx, BitVec.toNat_add]⟩

/-- Settles O49: an emission, by the engine or by `EMIT`, advances the lane; the other writers restart it. -/
theorem laneMovesOnlySo : Obligations.LaneMovesOnlySo := by
  intro s t h hne
  cases step_next h with
  | reset hr => exact .inr ⟨rfl, .inl hr⟩
  | engine =>
    by_cases hi : s.iterCnt = 0
    · rw [engineStep_of_no_iter (s := s.elapse) hi] at h ⊢
      exact .inl (lane_advances h rfl rfl)
    · rw [engineStep_of_iter (s := s.elapse) hi] at hne
      exact absurd rfl hne
  | performed c rest i t _ hb hh _ hd he =>
    obtain ⟨herr, rfl | ⟨hz, hi⟩⟩ := (exec_next he).lane_writer hne
    · exact .inl (lane_advances h rfl rfl)
    · refine .inr ⟨hz, .inr ⟨c, rest, hh, hb, herr, ?_⟩⟩
      obtain rfl | rfl | ⟨n, rfl⟩ := hi
      · exact .inl hd
      · exact .inr (.inl hd)
      · obtain rfl := decode_evolve_arg hd
        exact .inr (.inr hd)
  | illegal c rest e t _ _ _ _ _ he =>
    obtain ⟨_, _, rfl⟩ := acceptIllegal_frame he
    exact absurd rfl hne
  | idle => exact absurd rfl hne

/-! ## The status port -/

/-- Bit `k` of the status port, read from the fields that stand there, the lowest first (10_state.md R17). -/
theorem status_getLsbD (s : State) (k : Nat) :
    s.status.getLsbD k =
      if k < 1 then (flagBit s.busy).getLsbD k
      else if k < 2 then (flagBit s.err).getLsbD (k - 1)
      else if k < 4 then s.cause.code.getLsbD (k - 2)
      else if k < 5 then (flagBit s.ruleValid).getLsbD (k - 4)
      else if k < 7 then s.byteIdx.getLsbD (k - 5)
      else (flagBit false).getLsbD (k - 7) := by
  simp only [State.status, BitVec.getLsbD_append, Nat.sub_sub]
  grind

theorem status_cause (s : State) : s.status.extractLsb' 2 2 = s.cause.code := by
  ext j hj
  rw [BitVec.getElem_extractLsb', status_getLsbD, if_neg (by omega), if_neg (by omega), if_pos (by omega),
    Nat.add_sub_cancel_left, BitVec.getLsbD_eq_getElem hj]

theorem status_byteIdx (s : State) : s.status.extractLsb' 5 2 = s.byteIdx := by
  ext j hj
  rw [BitVec.getElem_extractLsb', status_getLsbD, if_neg (by omega), if_neg (by omega), if_neg (by omega),
    if_neg (by omega), if_pos (by omega), Nat.add_sub_cancel_left, BitVec.getLsbD_eq_getElem hj]

/-- Settles O14: each field stands at its bits of the concatenation. -/
theorem statusPortLayout : Obligations.StatusPortLayout := by
  refine ⟨fun s => ⟨?_, ?_, status_cause s, ?_, status_byteIdx s, ?_⟩, rfl, rfl, rfl, rfl, by decide⟩
  all_goals
    rw [status_getLsbD]
    simp [flagBit]

end Sys2Proof.Machine


/-! SUPPORT. Memory access, byte order and ordering (20_memory.md): what the observing commands write, the bytes of the
group. -/

namespace Sys2Proof.Machine

/-- A performed `NOP` leaves the state; `RDSTATE` and `RDRULE` append a word to `RD` and do no more (20_memory.md R30). -/
theorem Performed.of_observation {s t : State} {i : Instr} (h : Performed s i t)
    (hi : i = .nop ∨ i = .rdstate ∨ i = .rdrule) : t = s ∨ (i ≠ .nop ∧ ∃ w, t = s.respond w) := by
  cases h with
  | discarded | nop => exact .inl rfl
  | stateRead => exact .inr ⟨by simp, s.state, rfl⟩
  | ruleRead => exact .inr ⟨by simp, s.ruleWord, rfl⟩
  | _ => simp at hi

/-- Settles O29: the state is left whole, or a word is appended to `RD`. -/
theorem observationFrame : Obligations.ObservationFrame := by
  intro i s t hi h
  obtain rfl | ⟨hnop, w, rfl⟩ := (exec_next h).of_observation hi
  · simp
  · simp [hnop]

/-- Byte `k` of the group is byte lane `k` of the register (20_memory.md R27). -/
theorem group_getElem? (s : Word) {k : Nat} (hk : k < 4) : (group s)[k]? = some (byteOf s k) := by
  match k, hk with
  | 0, _ | 1, _ | 2, _ | 3, _ => rfl

/-- Settles O37: the word is the register, whose byte lanes the group lists. -/
theorem readWordMatchesGroup : Obligations.ReadWordMatchesGroup :=
  fun s _ hk => ⟨s.state, rfl, group_getElem? s.state hk⟩

end Sys2Proof.Machine

/-! SUPPORT. Encoding (30_encoding.md): the codes of the decoder and encoder, a transaction as one number, illegal codes, and
the assembler. -/

namespace Sys2Proof.Machine

/-! ## The decoder and the encoder -/

/-- A command is read back from its transaction (30_encoding.md R35, R36). -/
@[simp] theorem decode_encode (i : Instr) : decode (encode i) = .ok i := by
  cases i <;> rfl

/-- A code beyond the table is illegal, whatever the operand (30_encoding.md R37). -/
theorem decode_of_nine_le {c : Command} (h : 9 ≤ c.cmd.toNat) : decode c = .error (.illegal c.cmd) := by
  unfold decode
  split
  case h_10 => rfl
  all_goals omega

/-- The code of a decoded command is the one on the port. -/
theorem code_of_decode {c : Command} {i : Instr} (h : decode c = .ok i) : i.code = c.cmd := by
  unfold decode at h
  split at h <;> cases h <;> exact (BitVec.eq_of_toNat_eq ‹c.cmd.toNat = _›).symm

/-- Settles O1: one code at a time. -/
theorem commandCodesDecode : Obligations.CommandCodesDecode := by
  rintro ⟨cmd, arg⟩
  refine ⟨?_, ?_, ?_, ?_, ?_, ?_, ?_, ?_, ?_, decode_of_nine_le⟩ <;> (rintro rfl; rfl)

/-- Settles O4: the code is that of the transaction; a command carries the whole operand, or none and ignores it. -/
theorem decodedTransactionReencodes : Obligations.DecodedTransactionReencodes := by
  intro c i h
  have hcode : i.code = c.cmd := code_of_decode h
  refine ⟨hcode, ?_⟩
  rw [← hcode]
  cases i with
  | ldrule a => exact .inl (decode_ldrule_arg h)
  | evolve n => exact .inl (decode_evolve_arg h)
  | emitn n => exact .inl (decode_emitn_arg h)
  | _ => exact .inr ⟨rfl, fun _ => rfl⟩

/-! ## A transaction as one number -/

/-- A well-formed command is written as a transaction the bus can carry. -/
theorem encode_fits {cfg : Config} {i : Instr} (h : i.wf cfg = true) : (encode i).fits cfg = true := by
  cases i with
  | nop => exact Laws.EncodeFits.nop cfg h
  | ldrule arg => exact Laws.EncodeFits.ldrule arg cfg h
  | init => exact Laws.EncodeFits.init cfg h
  | step => exact Laws.EncodeFits.step cfg h
  | evolve n => exact Laws.EncodeFits.evolve n cfg h
  | emit => exact Laws.EncodeFits.emit cfg h
  | emitn n => exact Laws.EncodeFits.emitn n cfg h
  | rdstate => exact Laws.EncodeFits.rdstate cfg h
  | rdrule => exact Laws.EncodeFits.rdrule cfg h

/-- A transaction of the bus is a number of `8 + ARG_WIDTH` bits. -/
theorem toNumber_lt {cfg : Config} {c : Command} (h : c.fits cfg = true) : c.toNumber < 2 ^ (8 + cfg.argWidth) := by
  have harg : c.arg < 2 ^ cfg.argWidth := of_decide_eq_true h
  have hcmd : c.cmd.toNat < 2 ^ 8 := c.cmd.isLt
  rw [Command.toNumber, Nat.pow_add]
  omega

/-- A number of enough bits is read back as the transaction it stands for. -/
theorem ofNumber_toNumber {nbits : Nat} {c : Command} (h : c.toNumber < 2 ^ nbits) :
    Command.ofNumber nbits c.toNumber = c := by
  obtain ⟨cmd, arg⟩ := c
  have hcmd : BitVec.ofNat 8 (cmd.toNat + 2 ^ 8 * arg) = cmd := by
    apply BitVec.eq_of_toNat_eq
    rw [BitVec.toNat_ofNat, Nat.add_mul_mod_self_left, Nat.mod_eq_of_lt cmd.isLt]
  have harg : (cmd.toNat + 2 ^ 8 * arg) / 2 ^ 8 = arg := by have := cmd.isLt; omega
  rw [Command.ofNumber, Nat.mod_eq_of_lt h, Command.toNumber, hcmd, harg]

/-- Settles O3: the number has room for `cmd` and `arg` side by side, and the decoder reads both back. -/
theorem encodedTransactionDecodes : Obligations.EncodedTransactionDecodes := by
  intro cfg i hw
  have hlt := toNumber_lt (encode_fits hw)
  exact ⟨hlt, by simp [decodeTableWord, ofNumber_toNumber hlt]⟩

/-! ## Illegal codes -/

/-- Settles O7: the code does not decode, so the sequencer performs its fault, or discards it. -/
theorem illegalCodeFaults : Obligations.IllegalCodeFaults := by
  intro s c rest hr hb hh hf hc
  have hconsume : s.consume = { s with host := rest, rstIn := s.rstIn.tail } := by simp [State.consume, hh]
  rw [step_of_illegal hr hb hh hf (decode_of_nine_le hc), acceptIllegal]
  refine ⟨fun herr => ?_, fun herr => ?_⟩
  · rw [unlessErr_of_ok (s := s.consume) herr, hconsume, State.raise]
  · rw [unlessErr_of_err (s := s.consume) herr, hconsume]

/-! ## The assembler: commands -/

/-- A line that expands to commands within the limits assembles to their transactions. -/
theorem assembleParsed_of_fits {cfg : Config} {m : Mnemonic} {operands : List Nat} {is : List Instr}
    (he : expandLine m operands = some is) (hf : is.all (asmFits cfg) = true) :
    assembleParsed cfg m operands = .ok (is.map encode) := by
  simp [assembleParsed, he, hf]

/-- Settles O56: each pseudo-instruction expands to commands that meet the limits of R39. -/
theorem pseudoInstructionsExpand : Obligations.PseudoInstructionsExpand := by
  intro cfg n r i hn hr hi
  refine ⟨assembleParsed_of_fits (is := expandGenerate n r i) rfl ?_,
    assembleParsed_of_fits (is := expandSetup r i) rfl ?_⟩
  · simp [expandGenerate, asmFits, hn, hr, hi]
  · simp [expandSetup, asmFits, hr, hi]

/-- Every one of these transactions is the encoding of a command within the limits of R39. -/
def EncodeWithinLimits (cfg : Config) (cs : List Command) : Prop :=
  ∀ c ∈ cs, ∃ i, c = encode i ∧ asmFits cfg i = true

theorem EncodeWithinLimits.nil (cfg : Config) : EncodeWithinLimits cfg [] := by
  simp [EncodeWithinLimits]

theorem EncodeWithinLimits.append {cfg : Config} {cs ds : List Command} (hc : EncodeWithinLimits cfg cs)
    (hd : EncodeWithinLimits cfg ds) : EncodeWithinLimits cfg (cs ++ ds) :=
  fun c h => (List.mem_append.mp h).elim (hc c) (hd c)

theorem assembleParsed_withinLimits {cfg : Config} {m : Mnemonic} {operands : List Nat} {cs : List Command}
    (h : assembleParsed cfg m operands = .ok cs) : EncodeWithinLimits cfg cs := by
  unfold assembleParsed at h
  split at h
  · split at h <;> cases h
  · split at h
    case isFalse => cases h
    case isTrue hall =>
      cases h
      intro c hc
      obtain ⟨i, hi, rfl⟩ := List.mem_map.mp hc
      exact ⟨i, rfl, List.all_eq_true.mp hall i hi⟩

theorem assembleLine_withinLimits {cfg : Config} {line : List Char} {cs : List Command}
    (h : assembleLine cfg line = .ok cs) : EncodeWithinLimits cfg cs := by
  unfold assembleLine at h
  split at h
  · cases h; exact .nil cfg
  · split at h
    · cases h
    · split at h
      · cases h
      · exact assembleParsed_withinLimits h

theorem assemble_withinLimits {cfg : Config} {lines : List (List Char)} {cs : List Command}
    (h : assemble cfg lines = .ok cs) : EncodeWithinLimits cfg cs := by
  induction lines generalizing cs with
  | nil => cases h; exact .nil cfg
  | cons line rest ih =>
    unfold assemble at h
    split at h
    · cases h
    next first hfirst =>
      split at h
      · cases h
      next more hmore =>
        cases h
        exact (assembleLine_withinLimits hfirst).append (ih hmore)

/-- On a bus of at least 8 bits the limits of the assembler are within those of the bus. -/
theorem asmFits_wf {cfg : Config} {i : Instr} (hv : cfg.valid) (h : asmFits cfg i = true) : i.wf cfg = true := by
  cases i with
  | ldrule a =>
    have ha : a ≤ 255 := of_decide_eq_true h
    have hlimit : 2 ^ 8 ≤ cfg.argLimit := Nat.pow_le_pow_right (by decide) hv
    exact decide_eq_true (by omega)
  | evolve n | emitn n => exact h
  | _ => rfl

/-- Settles O57: what the assembler accepts encodes commands within its limits, and those fit the bus. -/
theorem assembledCommandsAreLegal : Obligations.AssembledCommandsAreLegal := by
  intro cfg lines cs hv h c hc
  obtain ⟨i, rfl, hi⟩ := assemble_withinLimits h c hc
  refine ⟨encode_fits (asmFits_wf hv hi), i, decode_encode i, rfl, ?_⟩
  rintro a rfl
  exact of_decide_eq_true hi

/-! ## The assembler: numbers -/

theorem digitValue_digitChar : ∀ d < 16, digitValue (Nat.digitChar d) = some d := by decide

theorem toLower_toNat (ch : Char) :
    ch.toLower.toNat = if 65 ≤ ch.toNat ∧ ch.toNat ≤ 90 then ch.toNat + 32 else ch.toNat := by
  by_cases h : ch.val ≥ 'A'.val ∧ ch.val ≤ 'Z'.val
  · have hrange : 65 ≤ ch.toNat ∧ ch.toNat ≤ 90 := h
    have hlower : ch.toLower.toNat = (ch.toNat + 32) % 2 ^ 32 := by rw [Char.toLower, dif_pos h]; rfl
    rw [hlower, if_pos hrange, Nat.mod_eq_of_lt (by omega)]
  · have hrange : ¬(65 ≤ ch.toNat ∧ ch.toNat ≤ 90) := h
    rw [Char.toLower, dif_neg h, if_neg hrange]

/-- The case of a digit does not matter (log entry 18). -/
@[simp] theorem digitValue_toLower (ch : Char) : digitValue ch.toLower = digitValue ch := by
  unfold digitValue
  rw [toLower_toNat]
  split
  case isTrue h => grind
  case isFalse => rfl

/-- Reading digits is Horner's scheme over their values. -/
theorem readDigits_eq_foldl {base : Nat} {text : List Char} {ds : List Nat} (acc : Nat)
    (hv : text.map digitValue = ds.map some) (hlt : ∀ d ∈ ds, d < base) :
    readDigits base acc text = some (ds.foldl (fun v d => base * v + d) acc) := by
  induction text generalizing ds acc with
  | nil =>
    obtain rfl : ds = [] := by simpa using hv.symm
    rfl
  | cons ch text ih =>
    cases ds with
    | nil => simp at hv
    | cons d ds =>
      obtain ⟨hch, htext⟩ : digitValue ch = some d ∧ text.map digitValue = ds.map some := by simpa using hv
      obtain ⟨hd, hds⟩ := List.forall_mem_cons.mp hlt
      simp [readDigits, hch, hd, ih _ htext hds]

/-- The digits of a number, the most significant first, are read as that number. -/
theorem readDigits_of_digits {base n : Nat} {text : List Char} (hb : 1 < base)
    (hv : text.map digitValue = (Nat.digits base n).reverse.map some) : readDigits base 0 text = some n := by
  have hlt : ∀ d ∈ (Nat.digits base n).reverse, d < base := fun d hd =>
    Nat.digits_lt_base hb (List.mem_reverse.mp hd)
  have hfold : (Nat.digits base n).foldr (fun d v => base * v + d) 0 = n := by
    simpa [Nat.ofDigits_eq_foldr, add_comm] using Nat.ofDigits_digits base n
  rw [readDigits_eq_foldl 0 hv hlt, List.foldl_reverse, hfold]

/-- The characters that print the digits of a number have their values, in any base up to 16. -/
theorem digitValue_map_digitChar {base : Nat} (hb : 1 < base) (hle : base ≤ 16) (n : Nat) :
    ((Nat.digits base n).reverse.map Nat.digitChar).map digitValue = (Nat.digits base n).reverse.map some := by
  rw [List.map_map]
  refine List.map_congr_left fun d hd => digitValue_digitChar d ?_
  exact (Nat.digits_lt_base hb (List.mem_reverse.mp hd)).trans_le hle

theorem ne_nil_of_digits {base n : Nat} {text : List Char} (hn : 0 < n)
    (hv : text.map digitValue = (Nat.digits base n).reverse.map some) : text ≠ [] := by
  rintro rfl
  exact Nat.digits_ne_nil_iff_ne_zero.mpr hn.ne' (by simpa using hv.symm)

/-- A text of digits has no `x`, so it is read in base 10. -/
theorem readNumber_decimal {text : List Char} {ds : List Nat} (hne : text ≠ [])
    (hv : text.map digitValue = ds.map some) : readNumber text = readDigits 10 0 text := by
  unfold readNumber
  split
  · exact absurd rfl hne
  · have hx : none ∈ ds.map some := by rw [← hv]; simp [digitValue]
    simp at hx
  · rfl

theorem readNumber_hex {text : List Char} (hne : text ≠ []) : readNumber ('0' :: 'x' :: text) = readDigits 16 0 text := by
  cases text with
  | nil => exact absurd rfl hne
  | cons ch rest => rfl

/-- Settles O58: the digits in either base have the values that `Nat.digits` lists, and there is at least one. -/
theorem assemblerReadsNumbers : Obligations.AssemblerReadsNumbers := by
  refine ⟨rfl, rfl, fun n hn => ⟨?_, fun text htext => ?_⟩⟩
  · have hv := digitValue_map_digitChar (base := 10) (by decide) (by decide) n
    rw [readNumber_decimal (ne_nil_of_digits hn hv) hv, readDigits_of_digits (by decide) hv]
  · have hv : text.map digitValue = (Nat.digits 16 n).reverse.map some := by
      rw [← digitValue_map_digitChar (by decide) (by decide) n, ← htext]
      simp
    rw [readNumber_hex (ne_nil_of_digits hn hv), readDigits_of_digits (by decide) hv]

end Sys2Proof.Machine


/-! SUPPORT. The rule decoder (40_rule_decoder.md): the table bit by bit, `LDRULE` in its three cases and its frame, the word
`RDRULE` gives. -/

namespace Sys2Proof.Machine

/-! ## The rule table -/

/-- Entry `i` is bit 0 of the rotated rule number, which is bit `i` of the rule number (40_rule_decoder.md R41, R42). -/
theorem ruleEntry_eq_getLsbD (r : Byte) {i : Nat} (hi : i < 8) : ruleEntry r i = r.getLsbD i := by
  have hbit : (rotr8 r i).getLsbD 0 = r.getLsbD i := by
    rw [rotr8_getLsbD r hi (by decide), Nat.zero_add, Nat.mod_eq_of_lt hi]
  rw [ruleEntry, BitVec.and_one_eq_setWidth_ofBool_getLsbD, hbit]
  cases r.getLsbD i <;> rfl

/-- `build_rule` lists its entries in the order of their indices (40_rule_decoder.md R41). -/
theorem buildRule_getElem?_eq_ruleEntry (r : Byte) {i : Nat} (hi : i < 8) : (buildRule r)[i]? = some (ruleEntry r i) := by
  match i, hi with
  | 0, _ | 1, _ | 2, _ | 3, _ | 4, _ | 5, _ | 6, _ | 7, _ => rfl

/-- Settles O30: entry `i` of the list is made from bit `i`. -/
theorem buildRuleIsTheBits : Obligations.BuildRuleIsTheBits := by
  intro r i hi
  rw [buildRule_getElem?_eq_ruleEntry r hi, ruleEntry_eq_getLsbD r hi]

/-! ## `LDRULE` -/

/-- `LDRULE` of a number that is no rule number raises `ARG_RANGE` (40_rule_decoder.md R43). -/
theorem execLdrule_of_ge {arg : Nat} {s : State} (he : s.err = false) (h : 256 ≤ arg) :
    execLdrule arg s = .next (s.raise .argRange) := by
  rw [execLdrule, unlessErr_of_ok he, ruleOperand_of_ge h]

/-- `LDRULE` of a rule number loads it and its table (40_rule_decoder.md R43). -/
theorem execLdrule_of_lt {arg : Nat} {s : State} (he : s.err = false) (h : arg < 256) :
    execLdrule arg s = .next (s.writeRule (BitVec.ofNat 8 arg) (buildRule (BitVec.ofNat 8 arg))) := by
  rw [execLdrule, unlessErr_of_ok he, ruleOperand_of_lt h]

/-- Settles O16: `State.raise` and `State.writeRule` are the record updates of the statement. -/
theorem ldruleLoadsRule : Obligations.LdruleLoadsRule :=
  ⟨fun _ => rfl, fun _ _ => ⟨fun he => unlessErr_of_err he _, execLdrule_of_ge, execLdrule_of_lt⟩⟩

/-- Settles O26: the state is left whole, or `ARG_RANGE` is raised, or the rule and its table are written. -/
theorem ruleDecoderFrame : Obligations.RuleDecoderFrame := by
  intro arg s t h
  cases exec_next h with
  | discarded => simp
  | ruleLoaded _ _ hlt => simp [Nat.not_le.mpr hlt]
  | argRange _ _ hge => simp [Nat.not_lt.mpr hge]

/-! ## `RDRULE` -/

/-- The word has `RULE_VALID` above the 8 bits of `RULE` and zeros above both (40_rule_decoder.md R44). -/
theorem ruleWord_eq_ofNat (s : State) :
    s.ruleWord = BitVec.ofNat 32 (256 * s.ruleValid.toNat + s.rule.toNat) := by
  have happend : (flagBit s.ruleValid ++ s.rule).toNat = 256 * s.ruleValid.toNat + s.rule.toNat := by
    rw [flagBit, BitVec.toNat_append, BitVec.toNat_ofBool, ← Nat.shiftLeft_add_eq_or_of_lt s.rule.isLt, Nat.shiftLeft_eq,
      Nat.mul_comm]
  rw [State.ruleWord, ← BitVec.ofNat_toNat, happend]

/-- Settles O23: `RDRULE` appends the rule word whatever the state. -/
theorem rdruleGivesRule : Obligations.RdruleGivesRule := by
  refine ⟨fun _ => rfl, fun s => ?_⟩
  rw [← ruleWord_eq_ofNat]
  rfl

end Sys2Proof.Machine

/-! SUPPORT. State evolution (41_state_evolution.md): the transition function column by column, `INIT`, `STEP`, `EVOLVE` and
`RDSTATE` in their cases and their frame, the engine's evolution step, and runs of `EVOLVE` and `STEP`. -/

namespace Sys2Proof.Machine

/-! ## The transition function -/

/-- `idx(c)`, the neighbourhood index of column `c` on the ring of 32 cells (41_state_evolution.md R46). -/
def neighbourhood (s : Word) (c : Nat) : Nat :=
  (s.getLsbD ((c + 31) % 32)).toNat + 2 * (s.getLsbD c).toNat + 4 * (s.getLsbD ((c + 1) % 32)).toNat

/-- The value of a 3-bit number, bit by bit. -/
theorem toNat_three_bits :
    ∀ x : BitVec 3, x.toNat = (x.getLsbD 0).toNat + 2 * (x.getLsbD 1).toNat + 4 * (x.getLsbD 2).toNat := by decide

theorem neighbourhood_lt (s : Word) (c : Nat) : neighbourhood s c < 8 := by
  have h0 := Bool.toNat_le (s.getLsbD ((c + 31) % 32))
  have h1 := Bool.toNat_le (s.getLsbD c)
  have h2 := Bool.toNat_le (s.getLsbD ((c + 1) % 32))
  rw [neighbourhood]
  omega

/-- Bit `k` of what column `c` reads is cell `c - 1 + k`: the first rotation goes one place left, the second `c` right
(41_state_evolution.md R45). -/
theorem rotr32_rotl32_getLsbD (s : Word) {c k : Nat} (hc : c < 32) (hk : k < 32) :
    (rotr32 (rotl32 s 1) c).getLsbD k = s.getLsbD ((c + 31 + k) % 32) := by
  rw [rotr32_getLsbD _ hc hk, rotl32_getLsbD _ (by decide) (by omega)]
  congr 1
  omega

/-- The table index of column `c` is its neighbourhood index (41_state_evolution.md R46). -/
theorem column_index (s : Word) {c : Nat} (hc : c < 32) :
    ((rotr32 (rotl32 s 1) c).extractLsb' 0 3).toNat = neighbourhood s c := by
  have hbit (k : Nat) (hk : k < 3) :
      ((rotr32 (rotl32 s 1) c).extractLsb' 0 3).getLsbD k = s.getLsbD ((c + 31 + k) % 32) := by
    rw [BitVec.getLsbD_extractLsb', decide_eq_true hk, Bool.true_and, Nat.zero_add,
      rotr32_rotl32_getLsbD s hc (by omega)]
  rw [toNat_three_bits, hbit 0 (by decide), hbit 1 (by decide), hbit 2 (by decide), neighbourhood, Nat.add_zero,
    show (c + 31 + 1) % 32 = c by omega, show (c + 31 + 2) % 32 = (c + 1) % 32 by omega]

/-- The next cell is the table entry at the neighbourhood index (41_state_evolution.md R46). -/
theorem getElem?_neighbourhood (table : RuleTable) (s : Word) {c : Nat} (hc : c < 32) :
    table[neighbourhood s c]? = some ((next table s).getLsbD c) := by
  rw [next_getLsbD table s hc, column, ← column_index s hc]
  exact Vector.getElem?_eq_getElem _

/-- Settles O31: `neighbourhood` is the index of the statement. -/
theorem nextReadsNeighbourhood : Obligations.NextReadsNeighbourhood :=
  fun table s _ hc => getElem?_neighbourhood table s hc

/-- Settles O32: the three cells make the index, and the index picks the entry. -/
theorem nextIsLocal : Obligations.NextIsLocal := by
  intro table s u c hc hleft hown hright
  have hindex : neighbourhood s c = neighbourhood u c := by rw [neighbourhood, hleft, hown, hright, neighbourhood]
  apply Option.some.inj
  rw [← getElem?_neighbourhood table s hc, hindex, getElem?_neighbourhood table u hc]

/-- Under rule `r` the next cell is the bit of `r` at the neighbourhood index (40_rule_decoder.md R42,
41_state_evolution.md R46). -/
theorem next_buildRule_getLsbD (r : Byte) (s : Word) {c : Nat} (hc : c < 32) :
    (next (buildRule r) s).getLsbD c = r.getLsbD (neighbourhood s c) := by
  apply Option.some.inj
  rw [← getElem?_neighbourhood (buildRule r) s hc, buildRuleIsTheBits r _ (neighbourhood_lt s c)]

/-- A rule whose bits at the neighbourhood indices are the cells of `v` leads to `v`. -/
theorem next_buildRule_eq {r : Byte} {s v : Word}
    (h : ∀ c < 32, r.getLsbD (neighbourhood s c) = v.getLsbD c) : next (buildRule r) s = v := by
  apply BitVec.eq_of_getLsbD_eq
  intro c hc
  rw [next_buildRule_getLsbD r s hc, h c hc]

/-- What each rule R49 names reads of a neighbourhood: its middle, right or left cell, the complement of the middle one, or
nothing (41_state_evolution.md R49). -/
theorem named_rule_bits (s : Word) (c : Nat) :
    (204#8).getLsbD (neighbourhood s c) = s.getLsbD c ∧
    (170#8).getLsbD (neighbourhood s c) = s.getLsbD ((c + 31) % 32) ∧
    (240#8).getLsbD (neighbourhood s c) = s.getLsbD ((c + 1) % 32) ∧
    (51#8).getLsbD (neighbourhood s c) = !s.getLsbD c ∧
    (0#8).getLsbD (neighbourhood s c) = false ∧
    (255#8).getLsbD (neighbourhood s c) = true := by
  rw [neighbourhood]
  generalize s.getLsbD ((c + 31) % 32) = right, s.getLsbD c = own, s.getLsbD ((c + 1) % 32) = left
  revert right own left
  decide

/-- The full register has every cell set. -/
theorem allOnes_getLsbD {c : Nat} (hc : c < 32) : (0xFFFFFFFF#32).getLsbD c = true := by
  rw [show 0xFFFFFFFF#32 = BitVec.allOnes 32 from rfl, BitVec.getLsbD_allOnes, decide_eq_true hc]

/-- On the empty register every index is 0, so that bit 0 of the rule decides (41_state_evolution.md R49). -/
theorem next_buildRule_zero (r : Byte) :
    next (buildRule r) 0x00000000#32 = if r.getLsbD 0 then 0xFFFFFFFF#32 else 0x00000000#32 := by
  apply next_buildRule_eq
  intro c hc
  have hindex : neighbourhood 0x00000000#32 c = 0 := by simp [neighbourhood]
  rw [hindex]
  cases r.getLsbD 0 with
  | false => exact BitVec.getLsbD_zero.symm
  | true => exact (allOnes_getLsbD hc).symm

/-- Settles O33: cell by cell, each named rule keeps one cell of the neighbourhood, its complement, or none. -/
theorem namedRulesOnEveryRegister : Obligations.NamedRulesOnEveryRegister := by
  refine ⟨fun s => ?_, next_buildRule_zero⟩
  refine ⟨?_, ?_, ?_, ?_, ?_, ?_⟩ <;> refine next_buildRule_eq fun c hc => ?_
  all_goals obtain ⟨hkeep, hrotl, hrotr, hnot, hclear, hfill⟩ := named_rule_bits s c
  · exact hkeep
  · rw [hrotl, ← rotl32, rotl32_getLsbD s (by decide) hc, show c + 32 - 1 = c + 31 from rfl]
  · rw [hrotr, ← rotr32, rotr32_getLsbD s (by decide) hc]
  · rw [hnot, BitVec.getLsbD_not, decide_eq_true hc, Bool.true_and]
  · rw [hclear, BitVec.getLsbD_zero]
  · rw [hfill, allOnes_getLsbD hc]

/-- Settles O34: three evaluations of the transition function. -/
theorem transitionVectors : Obligations.TransitionVectors := by
  refine ⟨?_, ?_, ?_⟩ <;> decide

/-! ## The commands -/

/-- `INIT` puts the register in the start state (41_state_evolution.md R48). -/
theorem execInit_of_ok {s : State} (he : s.err = false) :
    execInit s = .next (s.writeReg 0x00000001#32).restartLane :=
  unlessErr_of_ok he _

/-- `STEP` without a rule raises `NO_RULE` (41_state_evolution.md R49). -/
theorem execStep_of_no_rule {s : State} (he : s.err = false) (hv : s.ruleValid = false) :
    execStep s = .next (s.raise .noRule) := by
  simp [execStep, unlessErr_of_ok he, hv]

/-- `STEP` with a rule is one transition (41_state_evolution.md R49). -/
theorem execStep_of_rule {s : State} (he : s.err = false) (hv : s.ruleValid = true) :
    execStep s = .next (s.writeReg (next s.table s.state)).restartLane := by
  simp [execStep, unlessErr_of_ok he, hv]

/-- `EVOLVE` without a rule raises `NO_RULE`, whatever the count (41_state_evolution.md R50). -/
theorem execEvolve_of_no_rule {n : Nat} {s : State} (he : s.err = false) (hv : s.ruleValid = false) :
    execEvolve n s = .next (s.raise .noRule) := by
  simp [execEvolve, unlessErr_of_ok he, hv]

/-- `EVOLVE` with a rule loads the count (41_state_evolution.md R50). -/
theorem execEvolve_of_rule {n : Nat} {s : State} (he : s.err = false) (hv : s.ruleValid = true) :
    execEvolve n s = .next (s.writeIterCnt n).restartLane := by
  simp [execEvolve, unlessErr_of_ok he, hv, countOperand]

/-- Settles O17: the writes of `INIT` are the record update of the statement. -/
theorem initPutsStartState : Obligations.InitPutsStartState :=
  ⟨fun _ => rfl, fun _ => ⟨fun he => unlessErr_of_err he _, execInit_of_ok⟩⟩

/-- Settles O18: one case at a time. -/
theorem stepAdvancesRegister : Obligations.StepAdvancesRegister :=
  ⟨fun _ => rfl, fun _ => ⟨fun he => unlessErr_of_err he _, execStep_of_no_rule, execStep_of_rule⟩⟩

/-- Settles O19: one case at a time. -/
theorem evolveLoadsCount : Obligations.EvolveLoadsCount :=
  ⟨fun _ => rfl, fun _ _ => ⟨fun he => unlessErr_of_err he _, execEvolve_of_no_rule, execEvolve_of_rule⟩⟩

/-- Settles O22: `RDSTATE` has no case in which it is discarded. -/
theorem rdstateGivesRegister : Obligations.RdstateGivesRegister :=
  ⟨fun _ => rfl, fun _ => rfl⟩

/-- Settles O27: each of the three is discarded, faults before any rule, or is performed. -/
theorem evolutionFrame : Obligations.EvolutionFrame := by
  intro i s t hi h
  cases exec_next h with
  | discarded => simp
  | initialised => simp
  | stepped _ hv => simp [hv]
  | stepNoRule _ hv => simp [hv]
  | evolving _ _ hv => simp [hv]
  | evolveNoRule _ _ hv => simp [hv]
  | _ => simp at hi

/-! ## The engine -/

/-- Evolution work has the step, whatever is offered (10_state.md R20, 41_state_evolution.md R51). -/
theorem step_of_iter {s : State} (hr : s.rst = false) (hi : s.iterCnt ≠ 0) :
    step s = .next s.elapse.evolutionStep := by
  rw [step_of_busy hr ((busy_eq_true_iff s).mpr (.inl hi)), engineStep_of_iter (s := s.elapse) hi]

/-- Settles O9: the engine's evolution step after the host's side has moved on. -/
theorem engineEvolutionStep : Obligations.EngineEvolutionStep :=
  fun _ => step_of_iter

/-! ## Runs -/

/-- An idle block takes the first command of a script. -/
theorem step_of_script {s : State} {i : Instr} {rest : List Instr} (hr : s.rst = false) (hb : s.busy = false)
    (hh : s.host = script (i :: rest)) (hw : i.wf s.cfg = true) : step s = exec i s.consume :=
  step_of_offer hr hb hh (encode_fits hw) (decode_encode i)

theorem rst_of_noResetFor_one {s : State} (h : s.noResetFor 1 = true) : s.rst = false :=
  (noResetFor_succ (k := 0) h).1

/-- `j` engine steps of an evolution that has as many left, the host holding its offer (41_state_evolution.md R51, R52). -/
theorem runFor_evolution {s : State} {j : Nat} (hh : afterIdle s.host = s.host) (hj : j ≤ s.iterCnt)
    (hn : s.noResetFor j = true) :
    runFor j s = .next { s with
      state := nextIter s.table j s.state, iterCnt := s.iterCnt - j, rstIn := s.rstIn.drop j } := by
  induction j with
  | zero => rfl
  | succ j ih =>
    rw [runFor_add j 1 (ih (by omega) (noResetFor_mono (by omega) hn))]
    apply runFor_one
    rw [step_of_iter (rst_of_noResetFor_one (noResetFor_drop hn rfl)) (Nat.sub_ne_zero_of_lt hj)]
    simp [State.elapse, State.evolutionStep, State.writeReg, State.writeIterCnt, nextIter, hh, Nat.sub_sub]

/-- Settles O38: the acceptance of `EVOLVE n`, then `j` engine steps with the count `n` loaded. -/
theorem evolveRunsItsSteps : Obligations.EvolveRunsItsSteps := by
  intro n j s rest ⟨he, hb⟩ hv hlt hh hj hn
  have haccept : step s = .next (s.consume.writeIterCnt n).restartLane := by
    rw [step_of_script (rst_of_noResetFor_one (noResetFor_mono (by omega) hn)) hb hh (decide_eq_true hlt)]
    exact execEvolve_of_rule he hv
  have hhost : (s.consume.writeIterCnt n).restartLane.host = script rest := by simp [hh, script]
  rw [runFor_add 1 j (runFor_one haccept), runFor_evolution (by rw [hhost, afterIdle_script]) hj
    (noResetFor_drop hn (by simp))]
  simp [State.consume, State.writeIterCnt, State.restartLane, hh, script, Nat.add_comm]

/-- `n` accepted `STEP` commands: the register is `next^n`, and the first of them restarts the byte lane
(41_state_evolution.md R49, R52). -/
theorem runFor_steps {s : State} {n : Nat} {rest : List Instr} (hready : s.Ready) (hv : s.ruleValid = true)
    (hn : s.noResetFor n = true) :
    runFor n { s with host := script (List.replicate n .step ++ rest) } = .next { s with
      state := nextIter s.table n s.state, byteIdx := if n = 0 then s.byteIdx else 0#2,
      host := script rest, rstIn := s.rstIn.drop n } := by
  induction n generalizing rest with
  | zero => rfl
  | succ n ih =>
    obtain ⟨he, hb⟩ := hready
    rw [List.replicate_succ', List.append_assoc, List.singleton_append,
      runFor_add n 1 (ih (noResetFor_mono (by omega) hn))]
    apply runFor_one
    refine Eq.trans (step_of_script (i := .step) (rst_of_noResetFor_one (noResetFor_drop hn rfl)) hb rfl rfl) ?_
    refine Eq.trans (execStep_of_rule he hv) ?_
    simp [State.consume, State.writeReg, State.restartLane, nextIter, script]

/-- Settles O39: both runs reach `next^n` with no work left, and both restart the byte lane unless `n` is 0. -/
theorem evolveEqualsSteps : Obligations.EvolveEqualsSteps := by
  intro n s rest hready hv hlt hn
  refine ⟨_, _, evolveRunsItsSteps n n { s with host := script (.evolve n :: rest) } rest hready hv hlt rfl le_rfl hn,
    runFor_steps hready hv (noResetFor_mono (by omega) hn), rfl, fun hne => ?_⟩
  have hidle : s.iterCnt = 0 := ((busy_eq_false_iff s).mp hready.2).1
  simp [hne, hidle, Nat.add_comm]

end Sys2Proof.Machine

/-! SUPPORT. The keystream serializer (42_keystream_serializer.md): the bytes of the repeated group, `EMIT` and `EMITN` in
their cases and their frame, the engine's emission step, and runs of `EMITN` and of `GENERATE`. -/

namespace Sys2Proof.Machine

/-! ## The bytes of the repeated group -/

/-- The `j` bytes of the repeated group from position `k` on (42_keystream_serializer.md R54). -/
def groupBytes (s : Word) (k j : Nat) : List Byte := (List.range j).map fun p => byteOf s ((k + p) % 4)

@[simp] theorem groupBytes_zero (s : Word) (k : Nat) : groupBytes s k 0 = [] := rfl

theorem groupBytes_one (s : Word) (k : Nat) : groupBytes s k 1 = [byteOf s (k % 4)] := rfl

theorem groupBytes_four (s : Word) (k : Nat) : groupBytes s (4 * k) 4 = group s := by
  simp [groupBytes, group, List.range_succ]

theorem groupBytes_add (s : Word) (k a b : Nat) :
    groupBytes s k (a + b) = groupBytes s k a ++ groupBytes s (k + a) b := by
  simp [groupBytes, List.range_add, Nat.add_assoc]

/-- The group repeats after 4 bytes, so that only the lane of the position counts. -/
theorem groupBytes_mod (s : Word) (k j : Nat) : groupBytes s (k % 4) j = groupBytes s k j := by
  simp [groupBytes]

/-- `m` copies of the group, one after another (42_keystream_serializer.md R54). -/
theorem flatten_replicate_group (s : Word) (m : Nat) :
    (List.replicate m (group s)).flatten = groupBytes s 0 (4 * m) := by
  induction m with
  | zero => rfl
  | succ m ih =>
    rw [List.replicate_succ', List.flatten_append, List.flatten_singleton, ih, Nat.mul_succ, groupBytes_add,
      Nat.zero_add, groupBytes_four]

/-- The copies that `keystream` makes are enough for `n` bytes, and it keeps the first `n` of them. -/
theorem keystream_eq_groupBytes (n : Nat) (s : Word) : keystream n s = groupBytes s 0 n := by
  have henough : min n (4 * ((n + 3) / 4)) = n := by omega
  rw [keystream, flatten_replicate_group, groupBytes, ← List.map_take, List.take_range, henough, groupBytes]

/-- A keystream without its first `k` bytes is the group from position `k` on. -/
theorem drop_keystream (s : Word) (k j : Nat) : (keystream (k + j) s).drop k = groupBytes s k j := by
  have hlength : (groupBytes s 0 k).length = k := by simp [groupBytes]
  rw [keystream_eq_groupBytes, groupBytes_add, List.drop_left' hlength, Nat.zero_add]

/-- Settles O35: position `p` of the repeated group holds byte `p mod 4`. -/
theorem keystreamBytes : Obligations.KeystreamBytes := by
  intro n s
  rw [keystream_eq_groupBytes]
  exact ⟨by simp [groupBytes], fun p hp => by simp [groupBytes, byteOf, hp]⟩

/-- Settles O36: `p` and `p + 4` are the same modulo 4. -/
theorem generateHasPeriodFour : Obligations.GenerateHasPeriodFour := by
  intro n r i p hp
  obtain ⟨-, hbyte⟩ := keystreamBytes n (evolve r i)
  have hlater := hbyte (p + 4) hp
  rw [Nat.add_mod_right] at hlater
  exact ⟨_, hbyte p (by omega), hlater⟩

/-! ## The state after some bytes -/

/-- `s` after its next `j` bytes have left: they are in `OUT`, and the lane has advanced by `j` modulo 4
(42_keystream_serializer.md R55, R57). -/
def State.afterBytes (s : State) (j : Nat) : State :=
  { s with
    out := s.out ++ groupBytes s.state s.byteIdx.toNat j, byteIdx := BitVec.ofNat 2 ((s.byteIdx.toNat + j) % 4) }

theorem afterBytes_zero (s : State) : s.afterBytes 0 = s := by
  simp [State.afterBytes, Nat.mod_eq_of_lt s.byteIdx.isLt]

/-- One byte from the current lane on is the byte of that lane. -/
theorem groupBytes_lane (s : State) :
    groupBytes s.state s.byteIdx.toNat 1 = [s.state.extractLsb' (8 * s.byteIdx.toNat) 8] := by
  rw [groupBytes_one, Nat.mod_eq_of_lt s.byteIdx.isLt, byteOf]

/-- One byte is one `emit` (42_keystream_serializer.md R55). -/
theorem emitLane_eq_afterBytes (s : State) : s.emitLane = s.afterBytes 1 := by
  have hlane : s.byteIdx + 1#2 = BitVec.ofNat 2 ((s.byteIdx.toNat + 1) % 4) := by
    simp [BitVec.toNat_eq]
  rw [State.emitLane, State.afterBytes, hlane, groupBytes_lane, State.laneByte, byteOf]

/-- Emission goes on from the lane an earlier emission left (42_keystream_serializer.md R58). -/
theorem afterBytes_afterBytes (s : State) (a b : Nat) : (s.afterBytes a).afterBytes b = s.afterBytes (a + b) := by
  simp [State.afterBytes, groupBytes_add, groupBytes_mod, Nat.add_assoc]

/-! ## The commands -/

/-- `EMIT` emits one byte (42_keystream_serializer.md R55). -/
theorem execEmit_of_ok {s : State} (he : s.err = false) : execEmit s = .next (s.afterBytes 1) := by
  rw [execEmit, unlessErr_of_ok he, emitLane_eq_afterBytes]

/-- `EMITN` loads the count (42_keystream_serializer.md R56). -/
theorem execEmitn_of_ok {n : Nat} {s : State} (he : s.err = false) : execEmitn n s = .next (s.writeByteCnt n) :=
  unlessErr_of_ok he _

/-- Settles O20: the one byte is that of the current lane. -/
theorem emitGivesLaneByte : Obligations.EmitGivesLaneByte := by
  refine ⟨fun _ => rfl, fun s => ⟨fun he => unlessErr_of_err he _, fun he => ?_⟩⟩
  rw [← groupBytes_lane]
  exact execEmit_of_ok he

/-- Settles O21: the write of `EMITN` is the record update of the statement. -/
theorem emitnLoadsCount : Obligations.EmitnLoadsCount :=
  ⟨fun _ => rfl, fun _ _ => ⟨fun he => unlessErr_of_err he _, execEmitn_of_ok⟩⟩

/-- Settles O28: either command is discarded, or it is performed. -/
theorem serializerFrame : Obligations.SerializerFrame := by
  intro i s t hi h
  cases exec_next h with
  | discarded => simp
  | emitted => simp
  | emitting => simp
  | _ => simp at hi

/-! ## The engine -/

/-- With no evolution work left, emission work has the step, whatever is offered (10_state.md R20,
42_keystream_serializer.md R57). -/
theorem step_of_bytes {s : State} (hr : s.rst = false) (hi : s.iterCnt = 0) (hb : s.byteCnt ≠ 0) :
    step s = .next ((s.elapse.afterBytes 1).writeByteCnt (s.byteCnt - 1)) := by
  rw [step_of_busy hr ((busy_eq_true_iff s).mpr (.inr hb)), engineStep_of_no_iter (s := s.elapse) hi,
    State.emissionStep, emitLane_eq_afterBytes, elapse_byteCnt]

/-- Settles O10: one byte leaves after the host's side has moved on. -/
theorem engineEmissionStep : Obligations.EngineEmissionStep := by
  intro s hr hi hb
  rw [← groupBytes_lane]
  exact step_of_bytes hr hi hb

/-! ## Runs -/

/-- `j` engine steps of an emission that has as many bytes left, the host holding its offer
(42_keystream_serializer.md R57). -/
theorem runFor_emission {s : State} {j : Nat} (hh : afterIdle s.host = s.host) (hi : s.iterCnt = 0) (hj : j ≤ s.byteCnt)
    (hn : s.noResetFor j = true) :
    runFor j s = .next { s.afterBytes j with byteCnt := s.byteCnt - j, rstIn := s.rstIn.drop j } := by
  induction j generalizing s with
  | zero => rw [afterBytes_zero]; rfl
  | succ j ih =>
    obtain ⟨hr, hlater⟩ := noResetFor_succ hn
    rw [runFor_succ j (step_of_bytes hr hi (by omega))]
    refine Eq.trans (ih (congrArg afterIdle hh) hi (Nat.le_sub_one_of_lt hj) (hlater _ rfl)) ?_
    have hbytes : (s.afterBytes 1).afterBytes j = s.afterBytes (j + 1) := by rw [afterBytes_afterBytes, Nat.add_comm]
    rw [← hbytes]
    simp [State.elapse, State.afterBytes, State.writeByteCnt, hh, Nat.sub_sub, Nat.add_comm 1 j]

/-- The acceptance of `EMITN n`, then `j` of its `n` engine steps (42_keystream_serializer.md R56, R57). -/
theorem runFor_emitn {n j : Nat} {s : State} {rest : List Instr} (hready : s.Ready) (hlt : n < s.cfg.argLimit)
    (hh : s.host = script (.emitn n :: rest)) (hj : j ≤ n) (hn : s.noResetFor (1 + j) = true) :
    runFor (1 + j) s = .next { s.afterBytes j with
      byteCnt := n - j, host := script rest, rstIn := s.rstIn.drop (1 + j) } := by
  obtain ⟨he, hb⟩ := hready
  have haccept : step s = .next (s.consume.writeByteCnt n) := by
    rw [step_of_script (rst_of_noResetFor_one (noResetFor_mono (by omega) hn)) hb hh (decide_eq_true hlt)]
    exact execEmitn_of_ok he
  have hhost : (s.consume.writeByteCnt n).host = script rest := by simp [hh, script]
  rw [runFor_add 1 j (runFor_one haccept), runFor_emission (s := s.consume.writeByteCnt n)
    (by rw [hhost, afterIdle_script]) ((busy_eq_false_iff s).mp hb).1 hj (noResetFor_drop hn (by simp))]
  simp [State.consume, State.writeByteCnt, State.afterBytes, hh, script, Nat.add_comm]

/-- Settles O40: the bytes that have left are the keystream from the current lane on. -/
theorem emitnRunsItsBytes : Obligations.EmitnRunsItsBytes := by
  intro n j s rest hready hlt hh hj hn
  rw [drop_keystream]
  exact runFor_emitn hready hlt hh hj hn

/-- `EMITN n` run to its end leaves no work: the count is back at the 0 it had (42_keystream_serializer.md R57). -/
theorem runFor_emitn_to_end {n : Nat} {s : State} {rest : List Instr} (hready : s.Ready) (hlt : n < s.cfg.argLimit)
    (hn : s.noResetFor (1 + n) = true) :
    runFor (1 + n) { s with host := script (.emitn n :: rest) } = .next { s.afterBytes n with
      host := script rest, rstIn := s.rstIn.drop (1 + n) } := by
  have hzero : n - n = s.byteCnt := by rw [Nat.sub_self, ((busy_eq_false_iff s).mp hready.2).2]
  rw [runFor_emitn (s := { s with host := script (.emitn n :: rest) }) hready hlt rfl le_rfl hn, hzero]
  rfl

/-- An accepted `EMIT` (42_keystream_serializer.md R55). -/
theorem runFor_emit {s : State} {rest : List Instr} (hready : s.Ready) (hn : s.noResetFor 1 = true) :
    runFor 1 { s with host := script (.emit :: rest) } = .next { s.afterBytes 1 with
      host := script rest, rstIn := s.rstIn.tail } := by
  obtain ⟨he, hb⟩ := hready
  apply runFor_one
  refine Eq.trans (step_of_script (i := .emit) (rst_of_noResetFor_one hn) hb rfl rfl) ?_
  exact execEmit_of_ok he

/-- `EMITN a` and then `EMITN b`, both run to their end (42_keystream_serializer.md R58). -/
theorem runFor_emitn_emitn {a b : Nat} {s : State} {rest : List Instr} (hready : s.Ready)
    (hlt : a + b < s.cfg.argLimit) (hn : s.noResetFor (2 + a + b) = true) :
    runFor (2 + a + b) { s with host := script (.emitn a :: .emitn b :: rest) } = .next { s.afterBytes (a + b) with
      host := script rest, rstIn := s.rstIn.drop (2 + a + b) } := by
  have hsum : 2 + a + b = (1 + a) + (1 + b) := by omega
  rw [hsum] at hn ⊢
  rw [runFor_add _ _ (runFor_emitn_to_end hready (by omega) (noResetFor_mono (by omega) hn))]
  refine Eq.trans (runFor_emitn_to_end (s := { s.afterBytes a with rstIn := s.rstIn.drop (1 + a) }) hready
    (Nat.lt_of_le_of_lt (Nat.le_add_left b a) hlt) (noResetFor_drop hn rfl)) ?_
  rw [List.drop_drop, ← afterBytes_afterBytes]
  rfl

/-- Settles O41: both ways the same bytes leave, and the run with one command more takes one step more. -/
theorem splitEmission : Obligations.SplitEmission := by
  intro a b s rest hready hvalid hlt hn
  have hone : 1 < s.cfg.argLimit := Nat.one_lt_two_pow (Nat.ne_of_gt (Nat.lt_of_lt_of_le (by decide) hvalid))
  refine ⟨_, _, runFor_emitn_to_end hready hlt (noResetFor_mono (by omega) hn), ?_,
    runFor_emit hready (noResetFor_mono (by omega) hn), ?_⟩
  · rw [runFor_emitn_emitn hready hlt hn, List.tail_drop, show 1 + (a + b) + 1 = 2 + a + b by omega]
  · rw [runFor_emitn_to_end hready hone (noResetFor_mono (by omega) hn), ← List.drop_one, List.tail_drop]

/-- `LDRULE r` and then `INIT`, from any ready state (40_rule_decoder.md R43, 41_state_evolution.md R48). -/
theorem runFor_ldrule_init {r : Nat} {s : State} {rest : List Instr} (hready : s.Ready) (hvalid : s.cfg.valid)
    (hr : r ≤ 255) (hh : s.host = script (.ldrule r :: .init :: rest)) (hn : s.noResetFor 2 = true) :
    runFor 2 s = .next { s with
      rule := BitVec.ofNat 8 r, ruleValid := true, table := buildRule (BitVec.ofNat 8 r),
      state := 0x00000001#32, byteIdx := 0#2, host := script rest, rstIn := s.rstIn.drop 2 } := by
  obtain ⟨he, hb⟩ := hready
  have hlimit : 2 ^ 8 ≤ s.cfg.argLimit := Nat.pow_le_pow_right (by decide) hvalid
  have hldrule : step s = .next (s.consume.writeRule (BitVec.ofNat 8 r) (buildRule (BitVec.ofNat 8 r))) := by
    rw [step_of_script (rst_of_noResetFor_one (noResetFor_mono (by omega) hn)) hb hh (decide_eq_true (by omega))]
    exact execLdrule_of_lt he (by omega)
  rw [runFor_succ 1 hldrule]
  apply runFor_one
  refine Eq.trans (step_of_script (i := .init) (rest := rest)
    (rst_of_noResetFor_one (noResetFor_drop (j := 1) hn (by simp))) hb (by simp [hh, script]) rfl) ?_
  refine Eq.trans (execInit_of_ok he) ?_
  simp [State.consume, State.writeRule, State.writeReg, State.restartLane, hh, script, ← List.drop_one]

/-- `SETUP r, i` run to its end, from any ready state (30_encoding.md R40, 41_state_evolution.md R52). -/
theorem runFor_setup {r i : Nat} {s : State} {rest : List Instr} (hready : s.Ready) (hvalid : s.cfg.valid)
    (hr : r ≤ 255) (hi : i < s.cfg.argLimit) (hh : s.host = script (expandSetup r i ++ rest))
    (hn : s.noResetFor (3 + i) = true) :
    runFor (3 + i) s = .next { s with
      rule := BitVec.ofNat 8 r, ruleValid := true, table := buildRule (BitVec.ofNat 8 r),
      state := evolve (BitVec.ofNat 8 r) i, byteIdx := 0#2, host := script rest, rstIn := s.rstIn.drop (3 + i) } := by
  have hsteps : 3 + i = 2 + (1 + i) := by omega
  rw [hsteps] at hn ⊢
  have hzero : i - i = s.iterCnt := by rw [Nat.sub_self, ((busy_eq_false_iff s).mp hready.2).1]
  rw [runFor_add 2 (1 + i) (runFor_ldrule_init hready hvalid hr hh (noResetFor_mono (by omega) hn))]
  refine Eq.trans (evolveRunsItsSteps i i _ rest hready rfl hi rfl le_rfl (noResetFor_drop hn rfl)) ?_
  rw [hzero, List.drop_drop]
  rfl

/-- Settles O42: `SETUP` puts the register at `evolve(r, i)` and the lane at 0, and `EMITN n` emits from there. -/
theorem generateEmitsTheKeystream : Obligations.GenerateEmitsTheKeystream := by
  intro n r i s rest hready hvalid hr hlt hi hh hn
  have hsteps : 4 + i + n = (3 + i) + (1 + n) := by omega
  rw [hsteps] at hn ⊢
  rw [runFor_add _ _ (runFor_setup (rest := .emitn n :: rest) hready hvalid hr hi hh (noResetFor_mono (by omega) hn))]
  refine Eq.trans (runFor_emitn hready hlt rfl le_rfl (noResetFor_drop hn rfl)) ?_
  obtain ⟨hiter, -⟩ := (busy_eq_false_iff s).mp hready.2
  rw [generate, keystream_eq_groupBytes, Nat.sub_self, List.drop_drop]
  simp [State.afterBytes, hiter]

end Sys2Proof.Machine

/-! SUPPORT. Control (43_control.md): `NOP`, which no run of commands shows but by its one step, and the host's `combine`. -/

namespace Sys2Proof.Machine

/-! ## `NOP` -/

/-- Settles O15: `NOP` has no case in which it does anything. -/
theorem nopDoesNothing : Obligations.NopDoesNothing :=
  ⟨fun _ => rfl, fun _ => rfl⟩

/-! ## No command reads the host's side -/

/-- The block of `s` with another host: what it offers from now on, and the coming levels of `rst`. -/
def State.hostedBy (offers : List HostEvent) (levels : List Bool) (s : State) : State :=
  { s with host := offers, rstIn := levels }

section HostedBy
variable (offers : List HostEvent) (levels : List Bool)

/-- The check of `ERR` is not about the host. -/
theorem unlessErr_hostedBy (s : State) (p : Result) :
    unlessErr (s.hostedBy offers levels) (mapNext (State.hostedBy offers levels) p) =
      mapNext (State.hostedBy offers levels) (unlessErr s p) :=
  unlessErr_mapNext rfl p

theorem execLdrule_hostedBy (arg : Nat) (s : State) :
    execLdrule arg (s.hostedBy offers levels) = mapNext (State.hostedBy offers levels) (execLdrule arg s) := by
  rw [execLdrule, execLdrule, ← unlessErr_hostedBy]
  cases ruleOperand arg <;> rfl

theorem execStep_hostedBy (s : State) :
    execStep (s.hostedBy offers levels) = mapNext (State.hostedBy offers levels) (execStep s) := by
  rw [execStep, execStep, ← unlessErr_hostedBy, apply_ite (mapNext _)]
  rfl

theorem execEvolve_hostedBy (n : Nat) (s : State) :
    execEvolve n (s.hostedBy offers levels) = mapNext (State.hostedBy offers levels) (execEvolve n s) := by
  rw [execEvolve, execEvolve, ← unlessErr_hostedBy, apply_ite (mapNext _)]
  rfl

/-- A command does the same whatever the host does afterwards. -/
theorem exec_hostedBy (i : Instr) (s : State) :
    exec i (s.hostedBy offers levels) = mapNext (State.hostedBy offers levels) (exec i s) := by
  cases i with
  | nop => rfl
  | ldrule arg => exact execLdrule_hostedBy offers levels arg s
  | init => exact unlessErr_hostedBy offers levels s (.next (s.writeReg 0x00000001#32).restartLane)
  | step => exact execStep_hostedBy offers levels s
  | evolve n => exact execEvolve_hostedBy offers levels n s
  | emit => exact unlessErr_hostedBy offers levels s (.next s.emitLane)
  | emitn n => exact unlessErr_hostedBy offers levels s (.next (s.writeByteCnt (countOperand n)))
  | rdstate => rfl
  | rdrule => rfl

theorem acceptOffer_hostedBy (c : Command) (s : State) :
    acceptOffer c (s.hostedBy offers levels) = mapNext (State.hostedBy offers levels) (acceptOffer c s) := by
  have hcfg : (s.hostedBy offers levels).cfg = s.cfg := rfl
  rw [acceptOffer, acceptOffer, hcfg]
  cases c.fits s.cfg with
  | false => rfl
  | true =>
    cases decode c with
    | ok i => exact exec_hostedBy offers levels i s
    | error _ => exact unlessErr_hostedBy offers levels s (.next (s.raise .illegalCmd))

theorem engineStep_hostedBy (s : State) :
    (s.hostedBy offers levels).engineStep = s.engineStep.hostedBy offers levels := by
  rw [State.engineStep, State.engineStep, apply_ite (State.hostedBy offers levels)]
  rfl

end HostedBy

/-! ## Runs of a script without reset -/

/-- A busy block takes an engine step and its host holds the script. -/
theorem step_hostedBy_of_busy {s : State} (hb : s.busy = true) (commands : List Instr) {levels : List Bool}
    (hr : levels.headD false = false) :
    step (s.hostedBy (script commands) levels) = .next (s.engineStep.hostedBy (script commands) levels.tail) := by
  have hheld : (s.hostedBy (script commands) levels).elapse = s.hostedBy (script commands) levels.tail := by
    simp [State.elapse, State.hostedBy]
  rw [step_of_busy (s := s.hostedBy (script commands) levels) hr hb, hheld, engineStep_hostedBy]

/-- An idle block takes the first command of the script as it would from any other host. -/
theorem step_hostedBy_of_idle {s : State} (hb : s.busy = false) (i : Instr) (rest : List Instr) {levels : List Bool}
    (hr : levels.headD false = false) :
    step (s.hostedBy (script (i :: rest)) levels) =
      mapNext (State.hostedBy (script rest) levels.tail) (acceptOffer (encode i) s) := by
  rw [step_of_accept (s := s.hostedBy (script (i :: rest)) levels) hr hb rfl, ← acceptOffer_hostedBy]
  rfl

/-- An idle block at the end of its script waits. -/
theorem step_hostedBy_nil {s : State} (hb : s.busy = false) {levels : List Bool} (hr : levels.headD false = false) :
    step (s.hostedBy (script []) levels) = .next (s.hostedBy (script []) levels.tail) :=
  step_of_idle (s := s.hostedBy (script []) levels) hr hb rfl

/-- While there is work, in the engine or in the commands `before`, a step is the same whatever commands follow and whatever
`rst` will be later. -/
theorem step_hostedBy_append {s t : State} {before after : List Instr} {levels : List Bool}
    (hwork : ¬(before = [] ∧ s.busy = false)) (hr : levels.headD false = false)
    (h : step (s.hostedBy (script (before ++ after)) levels) = .next t) :
    ∃ (u : State) (left : List Instr), ∀ (rest : List Instr) (later : List Bool), later.headD false = false →
      step (s.hostedBy (script (before ++ rest)) later) = .next (u.hostedBy (script (left ++ rest)) later.tail) := by
  cases hb : s.busy with
  | true => exact ⟨s.engineStep, before, fun rest _ => step_hostedBy_of_busy hb (before ++ rest)⟩
  | false =>
    cases before with
    | nil => exact absurd ⟨rfl, hb⟩ hwork
    | cons i left =>
      obtain ⟨u, hu, -⟩ := mapNext_eq_next ((step_hostedBy_of_idle hb i (left ++ after) hr).symm.trans h)
      refine ⟨u, left, fun rest later hl => ?_⟩
      rw [List.cons_append, step_hostedBy_of_idle hb i (left ++ rest) hl, hu, mapNext_next]

/-- A step of a script without reset is the same whatever `rst` will be later. -/
theorem step_hostedBy_levels {s t : State} {commands : List Instr} {levels : List Bool} (hr : levels.headD false = false)
    (h : step (s.hostedBy (script commands) levels) = .next t) :
    ∃ (u : State) (left : List Instr), ∀ later : List Bool, later.headD false = false →
      step (s.hostedBy (script commands) later) = .next (u.hostedBy (script left) later.tail) := by
  by_cases hidle : commands = [] ∧ s.busy = false
  · obtain ⟨rfl, hb⟩ := hidle
    exact ⟨s, [], fun _ => step_hostedBy_nil hb⟩
  · rw [← List.append_nil commands] at h ⊢
    obtain ⟨u, left, hu⟩ := step_hostedBy_append hidle hr h
    exact ⟨u, left ++ [], hu []⟩

/-- No reset in the next `k + 1` steps: none now, and none in the `k` after it, whatever becomes of block and script. -/
theorem noResetFor_hostedBy_succ {s : State} {k : Nat} {offers : List HostEvent} {levels : List Bool}
    (h : (s.hostedBy offers levels).noResetFor (k + 1) = true) :
    levels.headD false = false ∧
      ∀ (u : State) (left : List HostEvent), (u.hostedBy left levels.tail).noResetFor k = true := by
  obtain ⟨hr, hlater⟩ := noResetFor_succ h
  exact ⟨hr, fun u left => hlater (u.hostedBy left levels.tail) rfl⟩

/-- A run of a script that no reset cuts is the same, later levels of `rst` apart, for all hosts that do not reset. -/
theorem runFor_hostedBy_levels {s t : State} {k : Nat} {commands : List Instr} {levels : List Bool}
    (hn : (s.hostedBy (script commands) levels).noResetFor k = true)
    (h : runFor k (s.hostedBy (script commands) levels) = .next t) :
    ∃ u : State, ∀ later : List Bool, (s.hostedBy (script commands) later).noResetFor k = true →
      runFor k (s.hostedBy (script commands) later) = .next { u with rstIn := later.drop k } := by
  induction k generalizing s commands levels with
  | zero => exact ⟨s.hostedBy (script commands) [], fun _ _ => rfl⟩
  | succ k ih =>
    obtain ⟨w, hw, -⟩ := runFor_succ_next h
    obtain ⟨hr, hlater⟩ := noResetFor_hostedBy_succ hn
    obtain ⟨v, left, hv⟩ := step_hostedBy_levels hr hw
    rw [runFor_succ k (hv levels hr)] at h
    obtain ⟨u, hu⟩ := ih (hlater v _) h
    refine ⟨u, fun later hl => ?_⟩
    obtain ⟨hlr, hll⟩ := noResetFor_hostedBy_succ hl
    rw [runFor_succ k (hv later hlr), hu later.tail (hll v _), List.drop_tail]

/-! ## A `NOP` in a run -/

/-- An idle block takes a `NOP`, and only the host's side moves on (43_control.md R61). -/
theorem step_hostedBy_nop {s : State} (hb : s.busy = false) (rest : List Instr) {levels : List Bool}
    (hr : levels.headD false = false) :
    step (s.hostedBy (script (.nop :: rest)) levels) = .next (s.hostedBy (script rest) levels.tail) :=
  step_of_script (s := s.hostedBy (script (.nop :: rest)) levels) hr hb rfl rfl

/-- A `NOP` that an idle block takes first only uses up a level of `rst`. -/
theorem runFor_nop_first {s t : State} {k : Nat} {after : List Instr} {levels : List Bool} (hb : s.busy = false)
    (hn : (s.hostedBy (script after) levels).noResetFor (k + 1) = true)
    (h : runFor k (s.hostedBy (script after) levels) = .next t) :
    runFor (k + 1) (s.hostedBy (script (.nop :: after)) levels) = .next { t with rstIn := t.rstIn.tail } := by
  obtain ⟨hr, hlater⟩ := noResetFor_hostedBy_succ hn
  have hnow := noResetFor_mono (Nat.le_succ k) hn
  obtain ⟨u, hu⟩ := runFor_hostedBy_levels hnow h
  cases h.symm.trans (hu levels hnow)
  rw [runFor_succ k (step_hostedBy_nop hb after hr), hu levels.tail (hlater s _), List.drop_tail, List.tail_drop]

/-- A run that has ended has no command left to offer and no engine work (10_state.md R23). -/
theorem runEnded_hostedBy {s : State} {commands : List Instr} {levels : List Bool}
    (h : (s.hostedBy (script commands) levels).runEnded = true) : commands = [] ∧ s.busy = false := by
  obtain ⟨hhost, hbusy⟩ := Bool.and_eq_true_iff.mp h
  refine ⟨?_, by simpa [State.hostedBy, State.busy] using hbusy⟩
  cases commands with
  | nil => rfl
  | cons i rest => simp [State.hostedBy, script] at hhost

/-- A `NOP` among the commands: both runs take the same steps until the block is idle with nothing before the `NOP`. -/
theorem runFor_insert_nop {s t : State} {k : Nat} {before after : List Instr} {levels : List Bool}
    (hn : (s.hostedBy (script (before ++ after)) levels).noResetFor (k + 1) = true)
    (h : runFor k (s.hostedBy (script (before ++ after)) levels) = .next t) (hended : t.runEnded = true) :
    runFor (k + 1) (s.hostedBy (script (before ++ .nop :: after)) levels) = .next { t with rstIn := t.rstIn.tail } := by
  induction k generalizing s before levels with
  | zero =>
    cases h
    obtain ⟨hnil, hb⟩ := runEnded_hostedBy hended
    obtain ⟨rfl, rfl⟩ := List.append_eq_nil_iff.mp hnil
    exact runFor_nop_first hb hn rfl
  | succ k ih =>
    by_cases hidle : before = [] ∧ s.busy = false
    · obtain ⟨rfl, hb⟩ := hidle
      exact runFor_nop_first hb hn h
    · obtain ⟨v, hv, -⟩ := runFor_succ_next h
      obtain ⟨hr, hlater⟩ := noResetFor_hostedBy_succ hn
      obtain ⟨u, left, hu⟩ := step_hostedBy_append hidle hr hv
      rw [runFor_succ k (hu after levels hr)] at h
      rw [runFor_succ (k + 1) (hu (.nop :: after) levels hr)]
      exact ih (hlater u _) h

/-- Settles O43: the block of `s` with the two hosts of the statement, which share the levels of `rst`. -/
theorem nopIsTransparent : Obligations.NopIsTransparent :=
  fun _ s _ _ _ hn h hended => runFor_insert_nop (s := s) (levels := s.rstIn) hn h hended

/-! ## The host's `combine` -/

/-- `combine` is the library's `zipWith` of the exclusive-or (43_control.md R62). -/
theorem combine_eq_zipWith (d k : List Byte) : combine d k = List.zipWith (· ^^^ ·) d k := by
  induction d generalizing k with
  | nil => rfl
  | cons x d ih =>
    cases k with
    | nil => rfl
    | cons y k => rw [combine, ih, List.zipWith_cons_cons]

/-- The exclusive-or with one keystream, twice, gives the data back as far as the keystream reaches (43_control.md R62). -/
theorem combine_combine (d k : List Byte) : combine (combine d k) k = d.take k.length := by
  induction d generalizing k with
  | nil => simp [combine]
  | cons x d ih =>
    cases k with
    | nil => rfl
    | cons y k =>
      rw [combine, combine, ih, BitVec.xor_assoc, BitVec.xor_self, BitVec.xor_zero, List.length_cons, List.take_succ_cons]

/-- Settles O59: `zipWith` is as long as the shorter list and works by position; twice `combine` cuts nothing off data that
are no longer than the keystream. -/
theorem combineIsSelfInverse : Obligations.CombineIsSelfInverse := by
  refine fun d k => ⟨?_, fun p x y hx hy => ?_, fun hle => ?_⟩
  · rw [combine_eq_zipWith, List.length_zipWith]
  · rw [combine_eq_zipWith, List.getElem?_zipWith, hx, hy]
  · rw [combine_combine, List.take_of_length_le hle]

end Sys2Proof.Machine

/-! SUPPORT. Exceptions (60_exceptions.md): what a faulted block still does, which commands and steps fault, steps that
always exist, idling, and several blocks. -/

namespace Sys2Proof.Machine

/-! ## A faulted block -/

/-- While `ERR = 1` a command can append to `RD` and do no more (60_exceptions.md R67). -/
theorem Performed.of_err {s t : State} {i : Instr} (h : Performed s i t) (he : s.err = true) :
    ∃ words, t = { s with rd := s.rd ++ words } := by
  cases h with
  | discarded | nop => exact ⟨[], by simp⟩
  | stateRead => exact ⟨[s.state], rfl⟩
  | ruleRead => exact ⟨[s.ruleWord], rfl⟩
  | _ => exact absurd he (by simp [‹s.err = false›])

/-- While `ERR = 1` an illegal code is discarded (60_exceptions.md R67). -/
theorem acceptIllegal_next_of_err {s t : State} (h : acceptIllegal s = .next t) (he : s.err = true) : t = s := by
  cases (unlessErr_of_err he _).symm.trans h
  rfl

/-- A step of a faulted block that is not busy: only the host's side moves on, and `RD` may grow (60_exceptions.md R67). -/
theorem step_next_of_err {s t : State} (h : step s = .next t) (he : s.err = true) (hb : s.busy = false)
    (hr : s.rst = false) :
    ∃ words offers, t = { s with rd := s.rd ++ words, host := offers, rstIn := s.rstIn.tail } := by
  cases step_next h with
  | reset hr' => simp [hr] at hr'
  | engine _ hb' => simp [hb] at hb'
  | performed c rest i t _ _ _ _ _ hp =>
    obtain ⟨words, rfl⟩ := (exec_next hp).of_err he
    exact ⟨words, s.host.tail, rfl⟩
  | illegal c rest e t _ _ _ _ _ hp =>
    obtain rfl := acceptIllegal_next_of_err hp he
    exact ⟨[], s.host.tail, by simp [State.consume]⟩
  | idle => exact ⟨[], afterIdle s.host, by simp [State.elapse]⟩

/-- A run of a faulted block that is not busy, without reset: the words it appends to `RD` are those of its steps, one after
another (60_exceptions.md R67, R68). -/
theorem runFor_next_of_err {k : Nat} {s t : State} (h : runFor k s = .next t) (he : s.err = true) (hb : s.busy = false)
    (hn : s.noResetFor k = true) :
    ∃ words offers, t = { s with rd := s.rd ++ words, host := offers, rstIn := s.rstIn.drop k } := by
  induction k generalizing s with
  | zero => cases h; exact ⟨[], t.host, by simp⟩
  | succ k ih =>
    obtain ⟨u, hu, hrun⟩ := runFor_succ_next h
    obtain ⟨hr, hlater⟩ := noResetFor_succ hn
    obtain ⟨first, offers, rfl⟩ := step_next_of_err hu he hb hr
    obtain ⟨later, offers', rfl⟩ := ih hrun he hb (hlater _ rfl)
    exact ⟨first ++ later, offers', by simp⟩

/-- Settles O52: the invariant says that a faulted block is not busy, so that no step is the engine's. -/
theorem faultedBlockOnlyAnswersReads : Obligations.FaultedBlockOnlyAnswersReads := by
  intro k s t hinv he hn h
  obtain ⟨-, -, -, ⟨hidle, -⟩, -, -⟩ := hinv
  obtain ⟨words, offers, rfl⟩ := runFor_next_of_err h he ((busy_eq_false_iff s).mpr (hidle he)) hn
  exact ⟨rfl, words, rfl⟩

/-- Settles O24: the check of `ERR` comes first in every command but `NOP` and the two reads. -/
theorem discardedWhileErr : Obligations.DiscardedWhileErr := by
  intro s i he
  cases i with
  | nop | rdstate | rdrule => rfl
  | _ => exact unlessErr_of_err he _

/-! ## Which commands and which steps fault -/

/-- The two ways a command faults, and the state it leaves then (60_exceptions.md R64 to R66). -/
theorem Performed.fault_cases {s t : State} {i : Instr} (h : Performed s i t) (he : s.err = false) (ht : t.err = true) :
    (∃ a, i = .ldrule a ∧ 256 ≤ a ∧ t = s.raise .argRange) ∨
    ((i = .step ∨ ∃ n, i = .evolve n) ∧ s.ruleValid = false ∧ t = s.raise .noRule) := by
  cases h with
  | argRange a _ ha => exact .inl ⟨a, rfl, ha, rfl⟩
  | stepNoRule _ hv => exact .inr ⟨.inl rfl, hv, rfl⟩
  | evolveNoRule n _ hv => exact .inr ⟨.inr ⟨n, rfl⟩, hv, rfl⟩
  | _ => simp [he] at ht

/-- Settles O50: the two ways a command faults, and that each of them does. -/
theorem faultsArePrecise : Obligations.FaultsArePrecise := by
  intro i s t he h
  have hcases := (exec_next h).fault_cases he
  refine ⟨⟨fun ht => ?_, ?_⟩, ?_, ?_⟩
  · obtain ⟨a, hi, ha, -⟩ | ⟨hi, hv, -⟩ := hcases ht
    · exact .inl ⟨a, hi, ha⟩
    · exact .inr ⟨hi, hv⟩
  · rintro (⟨a, rfl, ha⟩ | ⟨rfl | ⟨n, rfl⟩, hv⟩)
    · cases (execLdrule_of_ge he ha).symm.trans h; rfl
    · cases (execStep_of_no_rule he hv).symm.trans h; rfl
    · cases (execEvolve_of_no_rule he hv).symm.trans h; rfl
  · rintro ⟨a, rfl⟩ ht
    obtain ⟨-, -, -, rfl⟩ | ⟨hi, -⟩ := hcases ht
    · rfl
    · simp at hi
  · rintro hi ht
    obtain ⟨a, rfl, -⟩ | ⟨-, -, rfl⟩ := hcases ht
    · simp at hi
    · rfl

@[simp] theorem engineStep_err (s : State) : s.engineStep.err = s.err := by
  unfold State.engineStep; split <;> rfl
@[simp] theorem engineStep_cause (s : State) : s.engineStep.cause = s.cause := by
  unfold State.engineStep; split <;> rfl

theorem cmdValid_of_offer {s : State} {c : Command} {rest : List HostEvent} (hh : s.host = .offer c :: rest) :
    s.cmdValid = true := by
  simp [State.cmdValid, State.cmdPort, hh]

/-- Only the acceptance of an offer sets `ERR` (60_exceptions.md R63). -/
theorem accepts_of_step_sets_err {s t : State} (h : step s = .next t) (ht : t.err = true) (he : s.err = false) :
    s.busy = false ∧ s.rst = false ∧ s.cmdValid = true := by
  cases step_next h with
  | reset => simp at ht
  | engine | idle => simp [he] at ht
  | performed _ _ _ _ hr hb hh | illegal _ _ _ _ hr hb hh => exact ⟨hb, hr, cmdValid_of_offer hh⟩

/-- Without reset a step keeps the record of a fault, busy or not (10_state.md R15, 60_exceptions.md R68). -/
theorem step_keeps_fault_record {s t : State} (h : step s = .next t) (he : s.err = true) (hr : s.rst = false) :
    t.err = true ∧ t.cause = s.cause := by
  cases step_next h with
  | reset hr' => simp [hr] at hr'
  | engine | idle => simp [he]
  | performed c rest i t _ _ _ _ _ hp =>
    obtain ⟨words, rfl⟩ := (exec_next hp).of_err he
    exact ⟨he, rfl⟩
  | illegal c rest e t _ _ _ _ _ hp =>
    obtain rfl := acceptIllegal_next_of_err hp he
    exact ⟨he, rfl⟩

/-- Settles O51: of the kinds of step only acceptance sets `ERR`, and only reset touches the record of a fault. -/
theorem onlyAcceptanceFaults : Obligations.OnlyAcceptanceFaults := by
  refine fun s t h => ⟨accepts_of_step_sets_err h, fun he ht => ?_, fun he hr => (step_keeps_fault_record h he hr).2⟩
  by_contra hr
  simp [step_keeps_fault_record h he (Bool.eq_false_of_not_eq_true hr)] at ht

/-! ## A block never stops -/

theorem offersFit_iff (s : State) : s.offersFit = true ↔ ∀ c, .offer c ∈ s.host → c.fits s.cfg = true := by
  refine List.all_eq_true.trans ⟨fun h c hc => h _ hc, fun h e he => ?_⟩
  cases e with
  | offer c => exact h c he
  | idle => rfl

/-- No step adds to what the host will do. -/
theorem step_host_subset {s t : State} (h : step s = .next t) : ∀ e ∈ t.host, e ∈ s.host := by
  cases step_next h with
  | reset | idle => exact afterIdle_subset s.host
  | engine => rw [engineStep_host]; exact afterIdle_subset s.host
  | performed c rest i t _ _ _ _ _ hp =>
    rw [(exec_next hp).host_eq]; exact fun _ => List.mem_of_mem_tail
  | illegal c rest e t _ _ _ _ _ hp =>
    obtain ⟨_, _, rfl⟩ := acceptIllegal_frame hp
    exact fun _ => List.mem_of_mem_tail

theorem step_keeps_offersFit {s t : State} (h : step s = .next t) (hf : s.offersFit = true) : t.offersFit = true := by
  obtain ⟨_, _, -, -, -, hcfg⟩ := step_emits h
  rw [offersFit_iff] at hf ⊢
  exact fun c hc => hcfg ▸ hf c (step_host_subset h _ hc)

/-- A block whose host offers only what the bus can carry has a next state (60_exceptions.md R63, 10_state.md R21). -/
theorem step_total_of_offersFit {s : State} (hf : s.offersFit = true) : ∃ t, step s = .next t := by
  obtain hnext | ⟨-, -, c, rest, hh, hwide⟩ := step_total_or_wide s
  · exact hnext
  · have hc : c.fits s.cfg = true := (offersFit_iff s).mp hf c (by simp [hh])
    simp [hc] at hwide

/-- Settles O54: a step exists, and the offers that are left still fit. -/
theorem blockNeverStops : Obligations.BlockNeverStops := by
  intro k
  induction k with
  | zero => exact fun s hf => ⟨s, rfl, hf⟩
  | succ k ih =>
    intro s hf
    obtain ⟨u, hu⟩ := step_total_of_offersFit hf
    rw [runFor_succ k hu]
    exact ih u (step_keeps_offersFit hu hf)

/-! ## Idling and the end of a run -/

/-- Every event of a script is idle exactly when the script holds no offer. -/
theorem all_idle_iff (l : List HostEvent) : l.all (fun e => e == .idle) = true ↔ ∀ c, .offer c ∉ l := by
  refine List.all_eq_true.trans ⟨fun h c hc => ?_, fun h e he => ?_⟩
  · simpa using h _ hc
  · cases e with
    | offer c => exact absurd he (h c)
    | idle => rfl

/-- Settles O11: what elapses in an idle step is the head of the script and of the levels of `rst`. -/
theorem idleKeepsAllState : Obligations.IdleKeepsAllState := by
  refine fun s => ⟨fun hr hb hv => ?_, ?_⟩
  · rw [step_of_idle hr hb hv, State.elapse, afterIdle_of_no_offer hv]
  · rw [State.runEnded, Bool.and_eq_true, all_idle_iff, Bool.not_eq_true']

/-! ## Several blocks -/

/-- The inversion lemma of `stepInstance`: there is no block `k`, or it steps and its next state takes its place
(60_exceptions.md R73). -/
theorem stepInstance_next {k : Nat} {blocks after : List State} (h : stepInstance k blocks = .next after) :
    (blocks[k]? = none ∧ after = blocks) ∨
    ∃ s t, blocks[k]? = some s ∧ step s = .next t ∧ after = blocks.set k t := by
  rw [stepInstance] at h
  cases hk : blocks[k]? with
  | none => rw [hk] at h; cases h; exact .inl ⟨rfl, rfl⟩
  | some s =>
    rw [hk] at h
    cases hs : step s with
    | next t => simp only [hs] at h; cases h; exact .inr ⟨s, t, rfl, hs, rfl⟩
    | fault f => simp only [hs] at h; cases h
    | refused r => simp only [hs] at h; cases h

/-- Settles O60: replacing one element of a list leaves its length and every other element. -/
theorem blocksShareNothing : Obligations.BlocksShareNothing := by
  intro k blocks after h
  obtain ⟨hnone, rfl⟩ | ⟨s, t, hk, hs, rfl⟩ := stepInstance_next h
  · simp [hnone]
  · refine ⟨List.length_set, fun j hj => List.getElem?_set_ne hj.symm, fun s' hs' => ?_⟩
    cases hk.symm.trans hs'
    obtain ⟨hlt, -⟩ := List.getElem?_eq_some_iff.mp hk
    exact ⟨t, hs, List.getElem?_set_self hlt⟩

end Sys2Proof.Machine

/-! SUPPORT. Reset and hazards (70_reset_and_hazards.md): what every element holds after the reset event and at the start
of a run, and `EVOLVE 0`. -/

namespace Sys2Proof.Machine

/-! ## Reset -/

/-- The state at the start of a run is one that the reset event leaves (70_reset_and_hazards.md R76). -/
theorem resetEvent_reset : State.reset.resetEvent = State.reset := rfl

/-- No entry of the table is set after reset (70_reset_and_hazards.md R76). -/
theorem reset_table_getElem? : ∀ i < 8, State.reset.table[i]? = some false := by decide

theorem reset_status : State.reset.status = 0x00#8 := by decide

@[simp] theorem resetEvent_status (s : State) : s.resetEvent.status = 0x00#8 := reset_status
@[simp] theorem resetEvent_cmdReady (s : State) : s.resetEvent.cmdReady = true := rfl

/-- Settles O12: reset comes first in a step, before the engine and before any offer. -/
theorem resetSetsEveryElement : Obligations.ResetSetsEveryElement := by
  intro s hr
  refine ⟨s.elapse.resetEvent, step_of_reset hr, ?_⟩
  simpa using reset_table_getElem?

/-- Settles O13: every field but the table and the status port is written in the definition. -/
theorem resetStateValues : Obligations.ResetStateValues :=
  ⟨rfl, rfl, reset_table_getElem?, rfl, rfl, rfl, rfl, rfl, rfl, reset_status, rfl, rfl, rfl⟩

/-- Settles O44: the reset event gives the invariant to every block of valid width. -/
theorem resetHasInvariant : Obligations.ResetHasInvariant := by
  have hvalid : State.reset.cfg.valid := by decide
  rw [Obligations.ResetHasInvariant, ← resetEvent_reset]
  exact resetEvent_inv hvalid

/-! ## `EVOLVE 0` -/

/-- Settles O25: on an idle block `ITER_CNT` holds the 0 that `EVOLVE 0` writes. -/
theorem evolveZeroRestartsLane : Obligations.EvolveZeroRestartsLane := by
  rintro s ⟨he, hb⟩ hv
  obtain ⟨hi, -⟩ := (busy_eq_false_iff s).mp hb
  have hkeep : s.writeIterCnt 0 = s := by rw [State.writeIterCnt, ← hi]
  calc exec (.evolve 0) s
      _ = .next (s.writeIterCnt 0).restartLane := execEvolve_of_rule he hv
      _ = .next s.restartLane := by rw [hkeep]

end Sys2Proof.Machine

/-! SUPPORT. A transaction as one number (30_encoding.md section 2; log entry 11), and one that `withFetchWord` presents
(log entry 3). -/

namespace Sys2Proof.Machine

/-! ## Words of the opcode table -/

/-- The word of a command decodes to it in any number of bits that can hold the word. -/
theorem decodeTableWord_of_encode {nbits w : Nat} {i : Instr} (hw : (encode i).toNumber = w) (hlt : w < 2 ^ nbits) :
    decodeTableWord nbits w = some i := by
  subst hw
  simp [decodeTableWord, ofNumber_toNumber hlt]

/-- A word whose low byte is an illegal code decodes to nothing (30_encoding.md R37). -/
theorem decodeTableWord_of_nine_le {nbits w : Nat} (h : 9 ≤ (Command.ofNumber nbits w).cmd.toNat) :
    decodeTableWord nbits w = none := by
  simp [decodeTableWord, decode_of_nine_le h]

/-- A word that decodes holds a transaction that does. -/
theorem decode_ofNumber_of_decodeTableWord {nbits w : Nat} {i : Instr} (h : decodeTableWord nbits w = some i) :
    decode (Command.ofNumber nbits w) = .ok i := by
  unfold decodeTableWord at h
  split at h
  next j hd => cases h; exact hd
  next => cases h

/-- Settles O2: nine of the words are those of the commands, the other two hold illegal codes. -/
theorem tableWordsDecode : Obligations.TableWordsDecode := by
  refine ⟨?_, ?_, ?_, ?_, ?_, ?_, ?_, ?_, ?_, decodeTableWord_of_nine_le (by decide),
    decodeTableWord_of_nine_le (by decide)⟩ <;>
    exact decodeTableWord_of_encode rfl (by decide)

/-! ## The transaction presented -/

@[simp] theorem present_rst (s : State) (nbits w : Nat) : (s.present nbits w).rst = false := rfl
@[simp] theorem present_busy (s : State) (nbits w : Nat) : (s.present nbits w).busy = false := rfl

/-- Taking the offer undoes the presentation, but for the two counters. -/
theorem present_consume (s : State) (nbits w : Nat) :
    (s.present nbits w).consume = { s with iterCnt := 0, byteCnt := 0 } := rfl

/-- An operand the bus can carry is offered whole. -/
theorem present_host {s : State} {nbits w : Nat} (hf : (Command.ofNumber nbits w).fits s.cfg = true) :
    (s.present nbits w).host = .offer (Command.ofNumber nbits w) :: s.host := by
  have harg : (Command.ofNumber nbits w).arg < s.cfg.argLimit := of_decide_eq_true hf
  rw [State.present, Nat.mod_eq_of_lt harg]

/-- Settles O6: the block is idle and its host offers the whole transaction, so the step accepts it. -/
theorem presentedWordRuns : Obligations.PresentedWordRuns := by
  intro s nbits w i hd hf
  calc step (s.present nbits w)
      _ = exec i (s.present nbits w).consume :=
        step_of_offer (present_rst s nbits w) (present_busy s nbits w) (present_host hf) hf
          (decode_ofNumber_of_decodeTableWord hd)
      _ = exec i { s with iterCnt := 0, byteCnt := 0 } := by rw [present_consume]

end Sys2Proof.Machine
